-- ==== Sys2Proof/Word.lean ====
section
/-! DEFINITION. The widths the spec names: a byte is 8 bits (R9, R51), and `u16` and `u32` are the two wider
fields of a frame (R9, R54).  A burst is what crosses the line in one piece (R43). -/

namespace Sys2Proof

/-- `u8` (R9). -/
abbrev Byte := BitVec 8

/-- `u16` (R9). -/
abbrev Half := BitVec 16

/-- `u32` (R9). -/
abbrev Word := BitVec 32

/-- A byte sequence sent back to back and followed by an idle line (R43). -/
abbrev Burst := List Byte

end Sys2Proof
end

