-- ==== Sys2Proof/Config.lean ====
section
/-! DEFINITION. The parameters of R7 and the free values.

A parameter is plain data held in the field `cfg` of the state, which no step writes, so that a claim about every
state is a claim about every choice of the parameters (assumption 2).  The constants with no body are the values the
spec leaves open: nothing can evaluate them or prove what they are (assumption 4). -/

namespace Sys2Proof

/-- `UART_LINE` (R7, R156): everything R156 names, as numbers with no meaning of their own.  No rule reads it. -/
structure UartLine where
  /-- Baud rate. -/
  baud : Nat
  /-- Character length. -/
  characterLength : Nat
  /-- Parity. -/
  parity : Nat
  /-- Stop bits. -/
  stopBits : Nat
  /-- Flow control. -/
  flowControl : Nat
  /-- Which UART it is. -/
  uart : Nat
  /-- The DMA channels. -/
  dmaChannels : List Nat
  /-- The interrupt numbers. -/
  interruptNumbers : List Nat
  deriving DecidableEq, Repr, Inhabited

/-- The parameters of R7 that a model takes as arguments. -/
structure Config where
  /-- `TX_CAP`, capacity of the transmit buffer. -/
  txCap : Nat
  /-- `RX_CAP`, capacity of the receive buffer. -/
  rxCap : Nat
  /-- `MIN_APP_LEN`, 10 (the source's literal) or 11 (R127). -/
  minAppLen : Nat
  /-- `TICK_BITS`, width of the millisecond tick. -/
  tickBits : Nat
  /-- `POLL_MS`, the sleep between two looks at the response-ready flag. -/
  pollMs : Nat
  /-- `INITIAL_PASSWORD`. -/
  initialPassword : Word
  /-- `CMD_ENTER_SLEEP` (R91): no value is given. -/
  cmdEnterSleep : Half
  /-- `CMD_SET_LED` (R91): no value is given. -/
  cmdSetLed : Half
  /-- `UART_LINE`. -/
  uartLine : UartLine
  deriving DecidableEq, Repr

/-- The constraints R7 puts on the open parameters. -/
def Config.wf (c : Config) : Bool :=
  decide (23 ≤ c.txCap) && decide (c.txCap ≤ 65535) && decide (28 ≤ c.rxCap) && decide (c.rxCap ≤ 65535) &&
    (decide (c.minAppLen = 10) || decide (c.minAppLen = 11)) && decide (1 ≤ c.pollMs)

/-- The byte at an address of `TX` that nothing has written since reset (R25, R39, U2). -/
opaque Config.freeTxByte (addr : Nat) : Byte

/-- The byte at an address of `RX` that no burst has written since reset or since the last abort; `epoch` counts the
aborts, so that each abort leaves any bytes (R26, R143, U2, U9). -/
opaque Config.freeRxByte (epoch addr : Nat) : Byte

/-- A Boolean the spec leaves to the environment or leaves unconstrained; `n` is the state's draw counter. -/
opaque Config.freeBool (n : Nat) : Bool

/-- A 16-bit value the spec leaves unconstrained; `n` is the state's draw counter. -/
opaque Config.freeHalf (n : Nat) : Half

/-- The value of `CMD_ENTER_SLEEP` in the machine of `State.reset` (R91, N12). -/
opaque Config.openSleepCode : Half

/-- The value of `CMD_SET_LED` in the machine of `State.reset` (R91, N12). -/
opaque Config.openLedCode : Half

/-- The line parameters in the machine of `State.reset` (R156). -/
opaque Config.openUartLine : UartLine

/-- The parameters of the machine of `State.reset`: the spec's defaults where R7 has one; the capacities and the poll
interval are those of the spec's own programs (95_test_vectors.md section 3 and P6).  DESIGN CHOICE, assumption 2. -/
def Config.default : Config where
  txCap := 64
  rxCap := 64
  minAppLen := 10
  tickBits := 32
  pollMs := 10
  initialPassword := 0
  cmdEnterSleep := Config.openSleepCode
  cmdSetLed := Config.openLedCode
  uartLine := Config.openUartLine

end Sys2Proof
end

