-- ==== Sys2Proof/Syntax.lean ====
section
/-! DEFINITION. The operations and frames of spec/opcode_table.json as one inductive type: 28 operations selected by
ordinal (R100, R102), 14 request frames told by their command code (R90, R91), and the reply frame (R86). -/

namespace Sys2Proof

/-- A host callback (R27).  The spec gives no width; assumption 9. -/
abbrev Handle := BitVec 32

/-- A callback operand or register: a handle or `unset` (R27, R202). -/
abbrev Callback := Option Handle

/-- The operand of SET_LED_CONTROL (R38): five bytes passed through. -/
structure LedInfo where
  mode : Byte
  color : Byte
  p0 : Byte
  p1 : Byte
  p2 : Byte
  deriving DecidableEq, Repr

/-- The three formats of the table (R102).  Which one applies is decided by where the bits stand and not by any bit of
them (R99). -/
inductive Format where
  /-- An operation, selected by its 8-bit ordinal. -/
  | opsel
  /-- A request frame, selected by its 16-bit command code. -/
  | appOut
  /-- The reply frame, whatever its ack code. -/
  | appIn
  deriving DecidableEq, Repr

/-- One constructor per row of spec/opcode_table.json. -/
inductive Instr where
  /-- CHECKSUM (R120). -/
  | checksum (span : List Byte)
  /-- BUILD_FRAME (R122). -/
  | buildFrame (command : Half) (payload : List Byte)
  /-- PARSE_FRAME (R124) of `RX[0 .. rxsz)`. -/
  | parseFrame
  /-- START_RECEIVE (R141). -/
  | startReceive
  /-- TRANSMIT (R142) of the span `(0, len)` of `TX`. -/
  | transmit (len : Nat)
  /-- ABORT_RECEIVE (R143). -/
  | abortReceive
  /-- GET_TICK (R144). -/
  | getTick
  /-- DELAY_MS (R145). -/
  | delayMs (d : Nat)
  /-- ON_UART_RECEIVE (R178, R253). -/
  | onUartReceive (size : Half)
  /-- ON_TRANSMIT_COMPLETE (R153). -/
  | onTransmitComplete
  /-- SEND_AND_AWAIT (R170). -/
  | sendAndAwait (command : Half) (timeoutMs : Nat) (payload : List Byte)
  /-- INIT (R191). -/
  | init
  /-- IS_FINGER_PRESSED (R192). -/
  | isFingerPressed
  /-- MATCH (R193). -/
  | matchFinger
  /-- AUTO_ENROLL (R230). -/
  | autoEnroll (fingerId : Half) (presses : Byte) (progress : Callback)
  /-- START_ASYNC_MATCH (R251). -/
  | startAsyncMatch
  /-- START_ASYNC_ENROLL (R252). -/
  | startAsyncEnroll (fingerId : Half) (presses : Byte)
  /-- DELETE_FINGERPRINT (R194). -/
  | deleteFingerprint (fingerId : Half)
  /-- DELETE_ALL_FINGERPRINTS (R195). -/
  | deleteAllFingerprints
  /-- GET_FINGERPRINT_COUNT (R196). -/
  | getFingerprintCount
  /-- SET_PASSWORD (R197). -/
  | setPassword (value : Word) (writeToFlash : Bool)
  /-- UPDATE_FEATURE_AFTER_MATCH (R198). -/
  | updateFeatureAfterMatch (fingerId : Half)
  /-- GET_SYSTEM_POLICY (R199). -/
  | getSystemPolicy
  /-- ENTER_SLEEP_MODE (R200). -/
  | enterSleepMode (deep : Bool)
  /-- SET_LED_CONTROL (R201). -/
  | setLedControl (info : LedInfo)
  /-- SET_MATCH_CALLBACK (R202). -/
  | setMatchCallback (cb : Callback)
  /-- SET_ENROLL_PROGRESS_CALLBACK (R203). -/
  | setEnrollProgressCallback (cb : Callback)
  /-- SET_ENROLL_COMPLETE_CALLBACK (R204). -/
  | setEnrollCompleteCallback (cb : Callback)
  /-- CMD_HEARTBEAT, `0x0303` (R191). -/
  | cmdHeartbeat
  /-- CMD_AUTO_ENROLL, `0x0118` (R232). -/
  | cmdAutoEnroll (presses : Byte) (fingerId : Half)
  /-- CMD_MATCH_SYNC, `0x0123` (R193). -/
  | cmdMatchSync
  /-- CMD_MATCH_ASYNC, `0x0121` (R251). -/
  | cmdMatchAsync
  /-- CMD_DELETE.ONE, `0x0131` with mode byte 0 (R194). -/
  | cmdDeleteOne (fingerId : Half)
  /-- CMD_DELETE.ALL, `0x0131` with mode byte 1 (R195). -/
  | cmdDeleteAll
  /-- CMD_FINGER_STATUS, `0x0135` (R192). -/
  | cmdFingerStatus
  /-- CMD_COUNT, `0x0203` (R196). -/
  | cmdCount
  /-- CMD_SET_PASSWORD_FLASH, `0x0305` (R197). -/
  | cmdSetPasswordFlash (value : Word)
  /-- CMD_SET_PASSWORD_TEMP, `0x0201` (R197). -/
  | cmdSetPasswordTemp (value : Word)
  /-- CMD_UPDATE_FEATURE, `0x0116` (R198). -/
  | cmdUpdateFeature (fingerId : Half)
  /-- CMD_GET_POLICY, `0x02FB` (R199). -/
  | cmdGetPolicy
  /-- CMD_ENTER_SLEEP, an open code (R91, R200). -/
  | cmdEnterSleep (deep : Bool)
  /-- CMD_SET_LED, an open code (R91, R201). -/
  | cmdSetLed (info : LedInfo)
  /-- RESPONSE (R86, R125): the inbound frame. -/
  | response (ack : Half) (pwEcho : Word) (err : Word) (payload : List Byte)
  deriving DecidableEq, Repr

end Sys2Proof
end

