-- ==== Sys2Proof/WellFormed.lean ====
section
/-! DEFINITION. Which terms of `Instr` are operations the block can be given: the operand bounds of the spec, and the
widths in which an operand is written down (assumption 9). -/

namespace Sys2Proof

/-- The longest payload whose outbound application length still fits the 16-bit field: `7 + p <= 65535` (R88, R123). -/
def maxOutPayload : Nat := 65528

/-- The longest payload whose inbound application length still fits the 16-bit field: `11 + p <= 65535` (R129). -/
def maxInPayload : Nat := 65524

/-- The operand bounds, constructor by constructor. -/
def Instr.wf : Instr → Bool
  | .checksum _ => true
  | .buildFrame _ p => decide (p.length ≤ maxOutPayload)
  | .parseFrame => true
  | .startReceive => true
  | .transmit n => decide (n < 65536)
  | .abortReceive => true
  | .getTick => true
  | .delayMs d => decide (d < 4294967296)
  | .onUartReceive _ => true
  | .onTransmitComplete => true
  | .sendAndAwait _ t p => decide (t < 4294967296) && decide (p.length ≤ maxOutPayload)
  | .init => true
  | .isFingerPressed => true
  | .matchFinger => true
  | .autoEnroll _ _ _ => true
  | .startAsyncMatch => true
  | .startAsyncEnroll _ _ => true
  | .deleteFingerprint _ => true
  | .deleteAllFingerprints => true
  | .getFingerprintCount => true
  | .setPassword _ _ => true
  | .updateFeatureAfterMatch _ => true
  | .getSystemPolicy => true
  | .enterSleepMode _ => true
  | .setLedControl _ => true
  | .setMatchCallback _ => true
  | .setEnrollProgressCallback _ => true
  | .setEnrollCompleteCallback _ => true
  | .cmdHeartbeat => true
  | .cmdAutoEnroll _ _ => true
  | .cmdMatchSync => true
  | .cmdMatchAsync => true
  | .cmdDeleteOne _ => true
  | .cmdDeleteAll => true
  | .cmdFingerStatus => true
  | .cmdCount => true
  | .cmdSetPasswordFlash _ => true
  | .cmdSetPasswordTemp _ => true
  | .cmdUpdateFeature _ => true
  | .cmdGetPolicy => true
  | .cmdEnterSleep _ => true
  | .cmdSetLed _ => true
  | .response _ _ _ p => decide (p.length ≤ maxInPayload)

end Sys2Proof
end

