-- ==== Sys2Proof/Decode.lean ====
section
/-! DEFINITION. Byte order (R53, R54), the command-code map (R90), the ordinals (R102), and from them the reading and
the writing of an operation as bytes.

An `OPSEL` operation is its ordinal and then its operands in the order of R100; an `APP_OUT` request is its command
code and then the operand bytes of its payload in payload order; a reply is its ack code, password echo, error code and
payload.  A byte sequence operand is all the bytes that are left.  The spec gives only the ordinals and the codes; how
operands follow them is assumption 9.  A byte sequence is read whole: one that is too short or too long is rejected. -/

namespace Sys2Proof

/-! ### Byte order -/

/-- `be16` (R54). -/
def be16 (b0 b1 : Byte) : Half := BitVec.ofNat 16 (b0.toNat * 256 + b1.toNat)

/-- `be32` (R54). -/
def be32 (b0 b1 b2 b3 : Byte) : Word :=
  BitVec.ofNat 32 (b0.toNat * 16777216 + b1.toNat * 65536 + b2.toNat * 256 + b3.toNat)

/-- `bytes16` (R54), most significant byte first. -/
def bytes16 (v : Half) : List Byte := [BitVec.ofNat 8 (v.toNat / 256), BitVec.ofNat 8 v.toNat]

/-- `bytes32` (R54), most significant byte first. -/
def bytes32 (v : Word) : List Byte :=
  [BitVec.ofNat 8 (v.toNat / 16777216), BitVec.ofNat 8 (v.toNat / 65536), BitVec.ofNat 8 (v.toNat / 256),
    BitVec.ofNat 8 v.toNat]

/-! ### The command-code map (R90) -/

def codeHeartbeat : Half := 0x0303
def codeAutoEnroll : Half := 0x0118
def codeMatchSync : Half := 0x0123
def codeMatchAsync : Half := 0x0121
def codeDelete : Half := 0x0131
def codeFingerStatus : Half := 0x0135
def codeCount : Half := 0x0203
def codeSetPasswordFlash : Half := 0x0305
def codeSetPasswordTemp : Half := 0x0201
def codeUpdateFeature : Half := 0x0116
def codeGetPolicy : Half := 0x02FB

/-- The eleven codes of R90. -/
def listedCodes : List Half :=
  [codeHeartbeat, codeAutoEnroll, codeMatchSync, codeMatchAsync, codeDelete, codeFingerStatus, codeCount,
    codeSetPasswordFlash, codeSetPasswordTemp, codeUpdateFeature, codeGetPolicy]

/-- The open codes differ from the listed ones and from each other.  R91 lets no model assume it, so it is a premise of
what is said about reading the two open codes (assumption 26). -/
def Config.codesApart (c : Config) : Bool :=
  !listedCodes.contains c.cmdEnterSleep && !listedCodes.contains c.cmdSetLed && decide (c.cmdEnterSleep ≠ c.cmdSetLed)

/-! ### Reading -/

/-- Why a byte sequence names no operation. -/
inductive DecodeError where
  /-- No bytes, or too few for the format's first field. -/
  | empty
  /-- The ordinal is not one of R102. -/
  | unknownOrdinal
  /-- The command code is none of R90 and R91. -/
  | unknownCode
  /-- More or fewer operand bytes than the operation has. -/
  | badLength
  /-- A Boolean operand byte is neither 0 nor 1. -/
  | badFlag
  /-- The mode byte of the delete command is neither 0 nor 1 (R102). -/
  | badMode
  /-- The byte before a callback operand is neither 0 (unset) nor 1 (a handle). -/
  | badCallback
  /-- An operand is outside its bounds (`Instr.wf`). -/
  | illFormed
  deriving DecidableEq, Repr

/-- The answer of the decoder. -/
inductive Decoded where
  | ok (i : Instr)
  | reject (e : DecodeError)
  deriving DecidableEq, Repr

/-- No operand. -/
def readNone (i : Instr) : List Byte → Decoded
  | [] => .ok i
  | _ => .reject .badLength

/-- One `u16` operand. -/
def readHalf (f : Half → Instr) : List Byte → Decoded
  | [a, b] => .ok (f (be16 a b))
  | _ => .reject .badLength

/-- One `u32` operand. -/
def readWord (f : Word → Instr) : List Byte → Decoded
  | [a, b, c, d] => .ok (f (be32 a b c d))
  | _ => .reject .badLength

/-- One Boolean operand. -/
def readFlag (f : Bool → Instr) : List Byte → Decoded
  | [a] => if a = 0 then .ok (f false) else if a = 1 then .ok (f true) else .reject .badFlag
  | _ => .reject .badLength

/-- One callback operand: `00` for unset, or `01` and the handle. -/
def readCallback (f : Callback → Instr) : List Byte → Decoded
  | [t] => if t = 0 then .ok (f none) else if t = 1 then .reject .badLength else .reject .badCallback
  | [t, a, b, c, d] =>
    if t = 1 then .ok (f (some (be32 a b c d))) else if t = 0 then .reject .badLength else .reject .badCallback
  | _ => .reject .badLength

/-- Five operand bytes of SET_LED_CONTROL (R201). -/
def readLed (f : LedInfo → Instr) : List Byte → Decoded
  | [a, b, c, d, e] => .ok (f ⟨a, b, c, d, e⟩)
  | _ => .reject .badLength

/-- BUILD_FRAME's operands: command, payload. -/
def readBuildFrame : List Byte → Decoded
  | a :: b :: p => .ok (.buildFrame (be16 a b) p)
  | _ => .reject .badLength

/-- SEND_AND_AWAIT's operands: command, milliseconds, payload. -/
def readSendAndAwait : List Byte → Decoded
  | a :: b :: t0 :: t1 :: t2 :: t3 :: p => .ok (.sendAndAwait (be16 a b) (be32 t0 t1 t2 t3).toNat p)
  | _ => .reject .badLength

/-- AUTO_ENROLL's operands: identifier, presses, callback. -/
def readAutoEnroll : List Byte → Decoded
  | a :: b :: n :: cb => readCallback (.autoEnroll (be16 a b) n) cb
  | _ => .reject .badLength

/-- START_ASYNC_ENROLL's operands: identifier, presses. -/
def readAsyncEnroll : List Byte → Decoded
  | [a, b, n] => .ok (.startAsyncEnroll (be16 a b) n)
  | _ => .reject .badLength

/-- SET_PASSWORD's operands: value, writeToFlash. -/
def readSetPassword : List Byte → Decoded
  | a :: b :: c :: d :: fl => readFlag (.setPassword (be32 a b c d)) fl
  | _ => .reject .badLength

/-- The operation an ordinal of R102 selects. -/
def readOrdinal (ordinal : Byte) (r : List Byte) : Decoded :=
  match ordinal.toNat with
  | 0x01 => .ok (.checksum r)
  | 0x02 => readBuildFrame r
  | 0x03 => readNone .parseFrame r
  | 0x10 => readNone .startReceive r
  | 0x11 => readHalf (fun n => .transmit n.toNat) r
  | 0x12 => readNone .abortReceive r
  | 0x13 => readNone .getTick r
  | 0x14 => readWord (fun d => .delayMs d.toNat) r
  | 0x18 => readHalf .onUartReceive r
  | 0x19 => readNone .onTransmitComplete r
  | 0x20 => readSendAndAwait r
  | 0x30 => readNone .init r
  | 0x31 => readNone .isFingerPressed r
  | 0x32 => readNone .matchFinger r
  | 0x33 => readAutoEnroll r
  | 0x34 => readNone .startAsyncMatch r
  | 0x35 => readAsyncEnroll r
  | 0x36 => readHalf .deleteFingerprint r
  | 0x37 => readNone .deleteAllFingerprints r
  | 0x38 => readNone .getFingerprintCount r
  | 0x39 => readSetPassword r
  | 0x3A => readHalf .updateFeatureAfterMatch r
  | 0x3B => readNone .getSystemPolicy r
  | 0x3C => readFlag .enterSleepMode r
  | 0x3D => readLed .setLedControl r
  | 0x3E => readCallback .setMatchCallback r
  | 0x3F => readCallback .setEnrollProgressCallback r
  | 0x40 => readCallback .setEnrollCompleteCallback r
  | _ => .reject .unknownOrdinal

/-- The delete command's two rows, told apart by the mode byte (R102, R194, R195). -/
def readDelete : List Byte → Decoded
  | m :: r =>
    if m = 0 then readHalf .cmdDeleteOne r else if m = 1 then readNone .cmdDeleteAll r else .reject .badMode
  | _ => .reject .badLength

/-- CMD_AUTO_ENROLL's operand bytes in payload order (R232); the lift-detection flag is always 1 and no operand. -/
def readCmdAutoEnroll : List Byte → Decoded
  | [n, a, b] => .ok (.cmdAutoEnroll n (be16 a b))
  | _ => .reject .badLength

/-- A code that R90 does not list: one of the two open codes of R91, or none. -/
def readOpenCode (c : Config) (code : Half) (r : List Byte) : Decoded :=
  if code = c.cmdEnterSleep then readFlag .cmdEnterSleep r
  else if code = c.cmdSetLed then readLed .cmdSetLed r
  else .reject .unknownCode

/-- The request a command code selects. -/
def readCode (c : Config) (code : Half) (r : List Byte) : Decoded :=
  if code = codeHeartbeat then readNone .cmdHeartbeat r
  else if code = codeAutoEnroll then readCmdAutoEnroll r
  else if code = codeMatchSync then readNone .cmdMatchSync r
  else if code = codeMatchAsync then readNone .cmdMatchAsync r
  else if code = codeDelete then readDelete r
  else if code = codeFingerStatus then readNone .cmdFingerStatus r
  else if code = codeCount then readNone .cmdCount r
  else if code = codeSetPasswordFlash then readWord .cmdSetPasswordFlash r
  else if code = codeSetPasswordTemp then readWord .cmdSetPasswordTemp r
  else if code = codeUpdateFeature then readHalf .cmdUpdateFeature r
  else if code = codeGetPolicy then readNone .cmdGetPolicy r
  else readOpenCode c code r

/-- The reply's fields: ack code, password echo, error code, payload. -/
def readResponse : List Byte → Decoded
  | a :: b :: p0 :: p1 :: p2 :: p3 :: e0 :: e1 :: e2 :: e3 :: p =>
    .ok (.response (be16 a b) (be32 p0 p1 p2 p3) (be32 e0 e1 e2 e3) p)
  | _ => .reject .badLength

/-- The reading of each format, before the operand bounds are looked at. -/
def readFormat (c : Config) : Format → List Byte → Decoded
  | .opsel, o :: r => readOrdinal o r
  | .opsel, [] => .reject .empty
  | .appOut, a :: b :: r => readCode c (be16 a b) r
  | .appOut, _ => .reject .empty
  | .appIn, bs => readResponse bs

/-- An operation within its operand bounds stands; any other is rejected. -/
def checkBounds : Decoded → Decoded
  | .ok i => if i.wf then .ok i else .reject .illFormed
  | .reject e => .reject e

/-- The decoder: total on any bytes. -/
def decode (c : Config) (f : Format) (bs : List Byte) : Decoded := checkBounds (readFormat c f bs)

/-! ### Writing -/

/-- The byte of a Boolean operand. -/
def flagByte (b : Bool) : Byte := if b then 1 else 0

/-- The bytes of a callback operand. -/
def callbackBytes : Callback → List Byte
  | none => [0]
  | some h => 1 :: bytes32 h

/-- The five bytes of SET_LED_CONTROL in wire order (R201). -/
def ledBytes (l : LedInfo) : List Byte := [l.mode, l.color, l.p0, l.p1, l.p2]

/-- The format of an operation's row in the table. -/
def formatOf : Instr → Format
  | .cmdHeartbeat | .cmdAutoEnroll _ _ | .cmdMatchSync | .cmdMatchAsync | .cmdDeleteOne _ | .cmdDeleteAll
  | .cmdFingerStatus | .cmdCount | .cmdSetPasswordFlash _ | .cmdSetPasswordTemp _ | .cmdUpdateFeature _
  | .cmdGetPolicy | .cmdEnterSleep _ | .cmdSetLed _ => .appOut
  | .response _ _ _ _ => .appIn
  | .checksum _ | .buildFrame _ _ | .parseFrame | .startReceive | .transmit _ | .abortReceive | .getTick | .delayMs _
  | .onUartReceive _ | .onTransmitComplete | .sendAndAwait _ _ _ | .init | .isFingerPressed | .matchFinger
  | .autoEnroll _ _ _ | .startAsyncMatch | .startAsyncEnroll _ _ | .deleteFingerprint _ | .deleteAllFingerprints
  | .getFingerprintCount | .setPassword _ _ | .updateFeatureAfterMatch _ | .getSystemPolicy | .enterSleepMode _
  | .setLedControl _ | .setMatchCallback _ | .setEnrollProgressCallback _ | .setEnrollCompleteCallback _ => .opsel

/-- The encoder, from the ordinals of R102, the codes of R90 and R91, and the operand orders of R100. -/
def encode (c : Config) : Instr → List Byte
  | .checksum b => 0x01 :: b
  | .buildFrame cmd p => 0x02 :: (bytes16 cmd ++ p)
  | .parseFrame => [0x03]
  | .startReceive => [0x10]
  | .transmit n => 0x11 :: bytes16 (BitVec.ofNat 16 n)
  | .abortReceive => [0x12]
  | .getTick => [0x13]
  | .delayMs d => 0x14 :: bytes32 (BitVec.ofNat 32 d)
  | .onUartReceive n => 0x18 :: bytes16 n
  | .onTransmitComplete => [0x19]
  | .sendAndAwait cmd t p => 0x20 :: (bytes16 cmd ++ bytes32 (BitVec.ofNat 32 t) ++ p)
  | .init => [0x30]
  | .isFingerPressed => [0x31]
  | .matchFinger => [0x32]
  | .autoEnroll id n cb => 0x33 :: (bytes16 id ++ n :: callbackBytes cb)
  | .startAsyncMatch => [0x34]
  | .startAsyncEnroll id n => 0x35 :: (bytes16 id ++ [n])
  | .deleteFingerprint id => 0x36 :: bytes16 id
  | .deleteAllFingerprints => [0x37]
  | .getFingerprintCount => [0x38]
  | .setPassword v fl => 0x39 :: (bytes32 v ++ [flagByte fl])
  | .updateFeatureAfterMatch id => 0x3A :: bytes16 id
  | .getSystemPolicy => [0x3B]
  | .enterSleepMode d => [0x3C, flagByte d]
  | .setLedControl l => 0x3D :: ledBytes l
  | .setMatchCallback cb => 0x3E :: callbackBytes cb
  | .setEnrollProgressCallback cb => 0x3F :: callbackBytes cb
  | .setEnrollCompleteCallback cb => 0x40 :: callbackBytes cb
  | .cmdHeartbeat => bytes16 codeHeartbeat
  | .cmdAutoEnroll n id => bytes16 codeAutoEnroll ++ n :: bytes16 id
  | .cmdMatchSync => bytes16 codeMatchSync
  | .cmdMatchAsync => bytes16 codeMatchAsync
  | .cmdDeleteOne id => bytes16 codeDelete ++ 0 :: bytes16 id
  | .cmdDeleteAll => bytes16 codeDelete ++ [1]
  | .cmdFingerStatus => bytes16 codeFingerStatus
  | .cmdCount => bytes16 codeCount
  | .cmdSetPasswordFlash v => bytes16 codeSetPasswordFlash ++ bytes32 v
  | .cmdSetPasswordTemp v => bytes16 codeSetPasswordTemp ++ bytes32 v
  | .cmdUpdateFeature id => bytes16 codeUpdateFeature ++ bytes16 id
  | .cmdGetPolicy => bytes16 codeGetPolicy
  | .cmdEnterSleep d => bytes16 c.cmdEnterSleep ++ [flagByte d]
  | .cmdSetLed l => bytes16 c.cmdSetLed ++ ledBytes l
  | .response ack pw err p => bytes16 ack ++ bytes32 pw ++ bytes32 err ++ p

/-! ### The table's words -/

/-- How many operand bytes follow an ordinal at the least, so that a bare word of the table can be filled up with
zeros. -/
def ordinalOperandBytes : Nat → Nat
  | 0x02 => 2
  | 0x11 => 2
  | 0x14 => 4
  | 0x18 => 2
  | 0x20 => 6
  | 0x33 => 4
  | 0x35 => 3
  | 0x36 => 2
  | 0x39 => 5
  | 0x3A => 2
  | 0x3C => 1
  | 0x3D => 5
  | 0x3E => 1
  | 0x3F => 1
  | 0x40 => 1
  | _ => 0

/-- The same for a command code of R90. -/
def codeOperandBytes (code : Half) : Nat :=
  if code = codeAutoEnroll then 3
  else if code = codeDelete then 3
  else if code = codeSetPasswordFlash then 4
  else if code = codeSetPasswordTemp then 4
  else if code = codeUpdateFeature then 2
  else 0

/-- The format and the bytes that stand for a word of the table: 8 bits are an ordinal, 16 bits are the command field,
stored big-endian (R53); every operand byte is 0.  A 16-bit word is read as the request it names when R90 lists it, and
otherwise as the reply, whose row matches every word (R86, R99).  The rows of the two open codes have no bits in the
table, so no word of the table stands for them (assumption 26). -/
def tableBytes (nbits w : Nat) : Option (Format × List Byte) :=
  if nbits = 8 then
    some (.opsel, BitVec.ofNat 8 w :: List.replicate (ordinalOperandBytes (w % 256)) 0)
  else if nbits = 16 then
    let code := BitVec.ofNat 16 w
    if listedCodes.contains code then some (.appOut, bytes16 code ++ List.replicate (codeOperandBytes code) 0)
    else some (.appIn, bytes16 code ++ List.replicate 8 0)
  else none

/-- The instruction the decoder reads from a word of spec/opcode_table.json. -/
def decodeTableWord (nbits w : Nat) : Option Instr :=
  match tableBytes nbits w with
  | some (f, bs) =>
    match decode Config.default f bs with
    | .ok i => some i
    | .reject _ => none
  | none => none

end Sys2Proof
end

