-- ==== Sys2Proof/Machine/State.lean ====
section
/-! DEFINITION. The whole state of the block (R20), the value types of 10_state.md section 3, the ways a step can stop,
and the state after reset (R42, R320).  State is plain data; the fields marked MODEL are the model's own. -/

namespace Sys2Proof.Machine

/-! ### Value types -/

/-- `Status` (R32, R280): nine values, compared only for equality. -/
inductive Status where
  | ok
  | moduleError
  | timeout
  | invalidResponse
  | transmitError
  | receiveError
  | busy
  | asyncInProgress
  | unknownError
  deriving DecidableEq, Repr

/-- `CommandResult` (R34); `error` is the module error code, an opaque `u32` tested only against 0 (R33). -/
structure CommandResult where
  status : Status
  error : Word
  deriving DecidableEq, Repr

/-- `MatchResult` (R35). -/
structure MatchResult where
  success : Bool
  fingerId : Half
  score : Half
  deriving DecidableEq, Repr

/-- `EnrollStatus` (R36). -/
structure EnrollStatus where
  isComplete : Bool
  step : Byte
  progress : Byte
  fingerId : Half
  error : Word
  deriving DecidableEq, Repr

/-- The `EnrollStatus` before any step is decoded (R241). -/
def EnrollStatus.zero : EnrollStatus := ⟨false, 0, 0, 0, 0⟩

/-- `SystemPolicy` (R37). -/
structure SystemPolicy where
  duplicateCheck : Bool
  selfLearning : Bool
  recognition360 : Bool
  deriving DecidableEq, Repr

/-- A span of a buffer: an offset and a length (R57, R122). -/
structure Span where
  off : Nat
  len : Nat
  deriving DecidableEq, Repr

/-- PARSE_FRAME's verdict (R124, R126): one `invalid`, with no reason. -/
inductive Verdict where
  | invalid
  | valid (ack : Half) (err : Word) (payload : Span)
  deriving DecidableEq, Repr

/-! ### Registers -/

/-- `CurrentOperation` (R22). -/
inductive Session where
  | none
  | asyncMatch
  | asyncEnroll
  deriving DecidableEq, Repr

/-- `fg.phase` (R30). -/
inductive Phase where
  | idle
  | check
  | arm
  | send
  | wait
  | abort
  | parse
  | done
  deriving DecidableEq, Repr

/-- The foreground sequencer (R30). -/
structure Fg where
  phase : Phase
  /-- The operation in progress with its operands; `none` while `phase` is idle. -/
  instr : Option Instr
  /-- `tick` when the current wait began. -/
  t0 : Nat
  /-- The window of the current wait, in milliseconds. -/
  timeout : Nat
  /-- Milliseconds DELAY_MS still has to wait (R145). -/
  sleep : Nat
  cmd : Half
  payload : List Byte
  result : CommandResult
  /-- Out-value of `result`: the payload span (R177). -/
  span : Option Span
  /-- Out-value of `result`: the enrollment status as last written (R241). -/
  enroll : EnrollStatus
  deriving DecidableEq, Repr

/-- `pend` (R44). -/
structure Pend where
  /-- `pend.rx`: empty or one size. -/
  rx : Option Half
  /-- `pend.tx`: empty or present. -/
  tx : Bool
  deriving DecidableEq, Repr

/-- A byte buffer: address and byte, addresses strictly rising.  An address not listed holds nothing written. -/
abbrev Memory := List Host.Cell

/-- The canonical form: addresses strictly rising.  An unlisted address reads as no written byte, which no entry
equals, so every list of this form is canonical. -/
def Memory.wf : Memory → Bool
  | [] => true
  | [_] => true
  | c :: d :: m => decide (c.1 < d.1) && Memory.wf (d :: m)

/-! ### What the environment does, and what is observed (MODEL) -/

/-- MODEL: one entry of the script, the step of one agent (R12). -/
inductive Event where
  /-- The host calls an operation, or the peer sends a well-formed reply: the bytes of an instruction. -/
  | issue (fmt : Format) (bytes : List Byte)
  /-- `FG` takes the next numbered step of the operation in progress. -/
  | fg
  /-- `IRQ` takes a pending notification. -/
  | irq
  /-- `RXE` (R150). -/
  | rxe
  /-- `TXE` (R152). -/
  | txe
  /-- `PEER` (a): takes the head burst off `wireOut` (R160). -/
  | peerTake
  /-- `PEER` (b): sends any burst (R160). -/
  | peerSend (burst : Burst)
  /-- `TICK` (R161). -/
  | tick
  deriving DecidableEq, Repr

/-- Which callback was invoked: one of the three registers (R27), or the operand of AUTO_ENROLL (R235). -/
inductive CallbackRole where
  | onMatch
  | onProgress
  | onComplete
  | operand
  deriving DecidableEq, Repr

/-- The argument of a callback (R27). -/
inductive CallbackArg where
  | matched (m : MatchResult)
  | enroll (e : EnrollStatus)
  deriving DecidableEq, Repr

/-- MODEL: what the host code of one callback does (R260): the operations it calls, in order, and whether it returns
after them. -/
structure CallbackBody where
  calls : List Instr
  returns : Bool
  deriving DecidableEq, Repr

/-- MODEL: one callback invocation, as the host observes it (R325). -/
structure Invocation where
  role : CallbackRole
  handle : Handle
  arg : CallbackArg
  deriving DecidableEq, Repr

/-- The out-value of an operation (R100). -/
inductive OutValue where
  | nothing
  | checksum (b : Byte)
  | span (sp : Span)
  | verdict (v : Verdict)
  | answer (b : Bool)
  | tick (t : Nat)
  | payload (sp : Option Span)
  | pressed (b : Bool)
  | matched (m : MatchResult)
  | enrolled (e : EnrollStatus)
  | count (n : Half)
  | policy (p : SystemPolicy)
  deriving DecidableEq, Repr

/-- MODEL: what one operation returned, as the host observes it (R325).  `result` is `none` for an operation that
returns no `CommandResult`. -/
structure Returned where
  result : Option CommandResult
  out : OutValue
  deriving DecidableEq, Repr

/-- The state of the machine. -/
structure State where
  /-- The parameters (R7); no step writes them. -/
  cfg : Config
  /-- The session password (R21). -/
  pw : Word
  /-- `CurrentOperation` (R22). -/
  op : Session
  /-- The response-ready flag (R23). -/
  rdy : Bool
  /-- Size of the last completed receive (R24). -/
  rxsz : Half
  /-- The transmit buffer `TX` (R25). -/
  tx : Memory
  /-- The receive buffer `RX` (R26). -/
  rx : Memory
  /-- The callback registers (R27). -/
  cbMatch : Callback
  cbProgress : Callback
  cbComplete : Callback
  /-- Transport hidden state (R28). -/
  rxArmed : Bool
  txBusy : Bool
  txLen : Nat
  /-- The millisecond tick (R29), a number below `2^TICK_BITS`. -/
  tick : Nat
  /-- The foreground sequencer (R30). -/
  fg : Fg
  /-- The two directions of the line (R43), oldest burst first. -/
  wireOut : List Burst
  wireIn : List Burst
  /-- Pending notifications (R44). -/
  pend : Pend
  /-- A registered callback is running and will not return (R260 c, R296): `IRQ` and `FG` have stopped. -/
  hung : Bool
  /-- MODEL: what happens next, oldest first. -/
  script : List Event
  /-- MODEL: the coming answers of START_RECEIVE and TRANSMIT. -/
  answers : List Bool
  /-- MODEL: what each coming call of a registered callback does. -/
  bodies : List CallbackBody
  /-- MODEL: numbers the free values. -/
  draws : Nat
  /-- MODEL: counts the aborts, and so selects the free bytes of `RX`. -/
  rxEpoch : Nat
  /-- MODEL: what the operations returned, oldest first. -/
  results : List Returned
  /-- MODEL: the callback invocations, oldest first. -/
  invoked : List Invocation
  /-- MODEL: the bursts that appeared on `wireOut`, oldest first. -/
  sent : List Burst
  deriving DecidableEq, Repr

/-! ### How a step can stop -/

/-- The faults. -/
inductive Fault where
  /-- An access to a buffer address at or beyond its capacity (R51).  Raised by TRANSMIT of a span longer than
  `TX_CAP`, by ON_UART_RECEIVE with a size beyond `RX_CAP`, and by a read of `RX` beyond `RX_CAP`.  Safe: the block
  has no such address. -/
  | outsideBuffer
  deriving DecidableEq, Repr

/-- The refusals. -/
inductive Refusal where
  /-- An instruction whose meaning is not written; raised by an arm of `exec` and nowhere else.  Safe. -/
  | notModelled (mnemonic : String)
  /-- The issued bytes name no operation; raised by the fetch.  Safe. -/
  | undecodable (e : DecodeError)
  /-- A second foreground operation while one is in progress (R324, R331, U11); raised by every foreground operation
  and by the fetch.  Safe. -/
  | overlappingForeground
  /-- BUILD_FRAME with a payload beyond its precondition (R123, U1); raised by every operation that builds.  Safe. -/
  | payloadTooLong
  /-- A valid reply whose payload is shorter than the decoder reads (R190 d, R234, R256, U5); raised by the wrappers
  that decode, by AUTO_ENROLL and by the AsyncEnroll continuation.  Safe. -/
  | payloadTooShort
  /-- ON_UART_RECEIVE by anything but the transport's notification with its size (R324, U23); raised by ON_UART_RECEIVE
  and by a callback that calls it.  Safe. -/
  | spuriousNotification
  /-- A reply whose application length does not fit its 16-bit field (R129): there is no such frame.  Raised by
  RESPONSE.  Safe. -/
  | replyTooLong
  deriving DecidableEq, Repr

/-! ### Reset -/

/-- The sequencer at reset: idle; the other fields are meaningless while idle (R30).  DESIGN CHOICE for them,
assumption 7. -/
def Fg.reset : Fg where
  phase := .idle
  instr := none
  t0 := 0
  timeout := 0
  sleep := 0
  cmd := 0
  payload := []
  result := ⟨.ok, 0⟩
  span := none
  enroll := EnrollStatus.zero

/-- Reset with the given parameters and the given value of the tick, which the spec leaves unspecified (R29, U20). -/
def State.resetWith (c : Config) (tick0 : Nat) : State where
  cfg := c
  pw := c.initialPassword
  op := .none
  rdy := false
  rxsz := 0
  tx := []
  rx := []
  cbMatch := none
  cbProgress := none
  cbComplete := none
  rxArmed := false
  txBusy := false
  txLen := 0
  tick := tick0
  fg := Fg.reset
  wireOut := []
  wireIn := []
  pend := ⟨none, false⟩
  hung := false
  script := []
  answers := []
  bodies := []
  draws := 0
  rxEpoch := 0
  results := []
  invoked := []
  sent := []

/-- The machine right after reset (R42, R320): the construction of the block at power-up.  The tick starts at 0 by
DESIGN CHOICE, assumption 6. -/
def State.reset : State := State.resetWith Config.default 0

end Sys2Proof.Machine
end

