-- ==== Sys2Proof/Machine/Frame.lean ====
section
/-! DEFINITION. The packet codec as functions of byte sequences (30_encoding.md, 40_codec.md): the checksum, the two
frame layouts, and the validation of a received byte sequence.  It reads no state (R132). -/

namespace Sys2Proof.Machine

/-- The magic constant (R82). -/
def magic : List Byte := [0xF1, 0x1F, 0xE2, 0x2E, 0xB6, 0x6B, 0xA8, 0x8A]

/-- The 8-bit wrapping byte sum (R120); 0 for the empty sequence. -/
def byteSum : List Byte → Byte
  | [] => 0
  | b :: bs => b + byteSum bs

/-- `cks` (R120): `~sum + 1` in 8 bits. -/
def cks (bs : List Byte) : Byte := (byteSum bs ^^^ 0xFF) + 1

/-- A byte sequence followed by its checksum byte. -/
def sealed (bs : List Byte) : List Byte := bs ++ [cks bs]

/-- The link layer for an application length (R81): magic, length, link checksum. -/
def linkLayer (appLen : Nat) : List Byte := sealed (magic ++ bytes16 (BitVec.ofNat 16 appLen))

/-- The outbound application bytes less their checksum (R85): password, command, payload. -/
def outFields (pw : Word) (cmd : Half) (payload : List Byte) : List Byte := bytes32 pw ++ bytes16 cmd ++ payload

/-- The outbound frame (R80, R85, R122). -/
def outFrame (pw : Word) (cmd : Half) (payload : List Byte) : List Byte :=
  linkLayer (7 + payload.length) ++ sealed (outFields pw cmd payload)

/-- The inbound application bytes less their checksum (R86): password echo, ack code, error code, payload. -/
def inFields (pw : Word) (ack : Half) (err : Word) (payload : List Byte) : List Byte :=
  bytes32 pw ++ bytes16 ack ++ bytes32 err ++ payload

/-- `INBOUND` of R129. -/
def inFrame (pw : Word) (ack : Half) (err : Word) (payload : List Byte) : List Byte :=
  linkLayer (11 + payload.length) ++ sealed (inFields pw ack err payload)

/-- Byte `i` of a sequence that has one. -/
def byteAt (raw : List Byte) (i : Nat) : Byte := raw.getD i 0

/-- `raw[off .. off + len)`. -/
def slice (raw : List Byte) (off len : Nat) : List Byte := (raw.drop off).take len

/-- The application length a received sequence claims (R83). -/
def claimedLen (raw : List Byte) : Nat := (be16 (byteAt raw 8) (byteAt raw 9)).toNat

/-- PARSE_FRAME's outputs on `valid` (R125); at length 10 the payload length is clamped to 0 (R127). -/
def parsedFields (raw : List Byte) : Verdict :=
  .valid (be16 (byteAt raw 15) (byteAt raw 16))
    (be32 (byteAt raw 17) (byteAt raw 18) (byteAt raw 19) (byteAt raw 20)) ⟨21, claimedLen raw - 11⟩

/-- PARSE_FRAME (R124) of the bytes received, checks V1 to V6 in order, first failure wins.  The comparison of V4 is
made in unbounded integers (R131).  The password echo and the ack code are compared with nothing (R128). -/
def parseFrame (minAppLen : Nat) (raw : List Byte) : Verdict :=
  if raw.length < 11 then .invalid
  else if slice raw 0 8 ≠ magic then .invalid
  else if cks (slice raw 0 10) ≠ byteAt raw 10 then .invalid
  else if raw.length < 11 + claimedLen raw then .invalid
  else if claimedLen raw = 0 then .invalid
  else if cks (slice raw 11 (claimedLen raw - 1)) ≠ byteAt raw (10 + claimedLen raw) then .invalid
  else if claimedLen raw < minAppLen then .invalid
  else parsedFields raw

end Sys2Proof.Machine
end

