-- ==== Sys2Proof/Machine/Ops.lean ====
section
/-! DEFINITION. The named operations over the state: byte buffers, free values, the transport, the engines and the
peer, and the two ends of an operation, the raising of a status (R291) and the return to the caller. -/

namespace Sys2Proof.Machine

/-- The outcome of a step of this machine. -/
abbrev Res := Host.Outcome State Fault Refusal

/-! ### Byte buffers (R50, R51, R56) -/

/-- The byte written last at an address, if any. -/
def Memory.read : Memory → Nat → Option Byte
  | [], _ => none
  | (b, v) :: m, a => if a = b then some v else Memory.read m a

/-- Write one byte, keeping the addresses strictly rising. -/
def Memory.write : Memory → Nat → Byte → Memory
  | [], a, v => [(a, v)]
  | (b, w) :: m, a, v =>
    if a < b then (a, v) :: (b, w) :: m
    else if a = b then (a, v) :: m
    else (b, w) :: Memory.write m a v

/-- `MemWrite` (R10): the bytes of a sequence at rising addresses. -/
def Memory.writeBytes : Memory → Nat → List Byte → Memory
  | m, _, [] => m
  | m, a, v :: vs => Memory.writeBytes (Memory.write m a v) (a + 1) vs

/-- Byte `a` of `TX`: the byte written last, or a free value (R25, R39). -/
def State.txByte (s : State) (a : Nat) : Byte := (Memory.read s.tx a).getD (Config.freeTxByte a)

/-- Byte `a` of `RX`: the byte received last, or a free value (R26, R39, R143). -/
def State.rxByte (s : State) (a : Nat) : Byte := (Memory.read s.rx a).getD (Config.freeRxByte s.rxEpoch a)

/-- `MemRead(TX, a, n)` (R10). -/
def State.txBytes (s : State) (a n : Nat) : List Byte := (List.range n).map (fun i => s.txByte (a + i))

/-- `MemRead(RX, a, n)` (R10). -/
def State.rxBytes (s : State) (a n : Nat) : List Byte := (List.range n).map (fun i => s.rxByte (a + i))

/-! ### Free values -/

/-- A Boolean that nothing constrains. -/
def drawBool (s : State) : Bool × State := (Config.freeBool s.draws, { s with draws := s.draws + 1 })

/-- A `u16` that nothing constrains. -/
def drawHalf (s : State) : Half × State := (Config.freeHalf s.draws, { s with draws := s.draws + 1 })

/-- A `MatchResult` that nothing constrains (R255, U7, U8). -/
def drawMatch (s : State) : MatchResult × State :=
  let b := drawBool s
  let i := drawHalf b.2
  let c := drawHalf i.2
  (⟨b.1, i.1, c.1⟩, c.2)

/-- A `SystemPolicy` that nothing constrains (U7). -/
def drawPolicy (s : State) : SystemPolicy × State :=
  let b0 := drawBool s
  let b1 := drawBool b0.2
  let b2 := drawBool b1.2
  (⟨b0.1, b1.1, b2.1⟩, b2.2)

/-- The transport's next answer (R141, R142): the environment's list, and when that is used up a free value. -/
def drawAnswer (s : State) : Bool × State :=
  match s.answers with
  | a :: r => (a, { s with answers := r })
  | [] => drawBool s

/-! ### The transport (41_transport.md) -/

/-- START_RECEIVE (R141). -/
def startReceive (s : State) : Bool × State :=
  let d := drawAnswer s
  if d.1 then (true, { d.2 with rxArmed := true }) else (false, d.2)

/-- TRANSMIT (R142) of the span `(0, n)` of `TX`. -/
def transmit (n : Nat) (s : State) : Bool × State :=
  let d := drawAnswer s
  if d.1 then (true, { d.2 with txBusy := true, txLen := n }) else (false, d.2)

/-- ABORT_RECEIVE (R143): disarms, and leaves any bytes in `RX`. -/
def abortReceive (s : State) : State := { s with rxArmed := false, rx := [], rxEpoch := s.rxEpoch + 1 }

/-- The milliseconds from `t0` to now (R174): a wrapping subtraction modulo `2^TICK_BITS`. -/
def elapsed (s : State) : Nat := (s.tick + 2 ^ s.cfg.tickBits - s.fg.t0) % 2 ^ s.cfg.tickBits

/-! ### BUILD_FRAME into `TX` -/

/-- BUILD_FRAME's precondition (R123). -/
def fitsTx (s : State) (payload : List Byte) : Bool :=
  decide (18 + payload.length ≤ s.cfg.txCap) && decide (7 + payload.length ≤ 65535)

/-- BUILD_FRAME's writes (R122): the frame at `TX[0 .. 18 + p)`.  The two checksums the pseudocode reads back from `TX`
are those of the bytes it has just written. -/
def putFrame (cmd : Half) (payload : List Byte) (s : State) : State :=
  { s with tx := Memory.writeBytes s.tx 0 (outFrame s.pw cmd payload) }

/-! ### The engines, the peer and the tick -/

/-- `RXE` (R150). -/
def rxeStep (s : State) : State :=
  match s.wireIn with
  | [] => s
  | b :: rest =>
    if s.rxArmed then
      let k := min b.length s.cfg.rxCap
      { s with wireIn := rest, rx := Memory.writeBytes s.rx 0 (b.take k), rxArmed := false,
               pend := { s.pend with rx := some (BitVec.ofNat 16 k) } }
    else { s with wireIn := rest }

/-- A burst put at the end of a queue; nothing is not a burst (R43). -/
def putBurst (q : List Burst) (b : Burst) : List Burst := if b = [] then q else q ++ [b]

/-- `TXE` (R152): the bytes `TX` holds now (R66); the burst is observed as it appears (R325). -/
def txeStep (s : State) : State :=
  if s.txBusy then
    { s with wireOut := putBurst s.wireOut (s.txBytes 0 s.txLen), txBusy := false, pend := { s.pend with tx := true },
             sent := putBurst s.sent (s.txBytes 0 s.txLen) }
  else s

/-- `PEER` (a) (R160). -/
def peerTake (s : State) : State := { s with wireOut := s.wireOut.tail }

/-- `PEER` (b) (R160). -/
def peerSend (b : Burst) (s : State) : State := { s with wireIn := putBurst s.wireIn b }

/-- `TICK` (R161); a DELAY_MS in progress has one millisecond less to wait (R145). -/
def tickStep (s : State) : State :=
  { s with tick := (s.tick + 1) % 2 ^ s.cfg.tickBits, fg := { s.fg with sleep := s.fg.sleep - 1 } }

/-! ### Operations: the call, the raising of a status, the return -/

/-- Move the sequencer to another step. -/
def setPhase (p : Phase) (s : State) : State := { s with fg := { s.fg with phase := p } }

/-- The call of a multi-step operation: `Idle` to `Check` with its operands latched (R30, R182, R242). -/
def beginCall (i : Instr) (cmd : Half) (payload : List Byte) (s : State) : State :=
  { s with fg := { s.fg with phase := .check, instr := some i, sleep := 0, cmd := cmd, payload := payload,
                             result := ⟨.ok, 0⟩, span := none, enroll := EnrollStatus.zero } }

/-- `raise S(info)` (R10, R291): the remaining steps are dropped and the operation is done with `(S, info)`.  Nothing
is saved and no control goes anywhere but back to the caller.  `OK` and `AsyncInProgress` end an operation the same
way. -/
def raise (st : Status) (info : Word) (s : State) : State :=
  { s with fg := { s.fg with phase := .done, result := ⟨st, info⟩ } }

/-- The return to the caller (R182): `Done` to `Idle`, with the result and the out-value. -/
def returnToCaller (out : OutValue) (s : State) : State :=
  { s with fg := { s.fg with phase := .idle, instr := none }, results := s.results ++ [⟨some s.fg.result, out⟩] }

/-- What an operation of one step returns: no `CommandResult` (R100). -/
def answerCaller (out : OutValue) (s : State) : State := { s with results := s.results ++ [⟨none, out⟩] }

/-- An operation that is answered `Busy` at once (R171, R261): a result and an out-value, and no side effect. -/
def answerBusy (out : OutValue) (s : State) : State := { s with results := s.results ++ [⟨some ⟨.busy, 0⟩, out⟩] }

/-- An operation of one step runs when no foreground operation is in progress (R324, R331). -/
def whenIdle (s : State) (k : Res) : Res :=
  if s.fg.phase = .idle then k else .refused .overlappingForeground

/-- An operation of many steps: when the sequencer is idle the call, when this operation is in progress its next
numbered step, and otherwise a second foreground operation (R324, R331). -/
def operation (i : Instr) (call : State → State) (next : State → Res) (s : State) : Res :=
  if s.fg.phase = .idle then .next (call s)
  else if s.fg.instr = some i then next s
  else .refused .overlappingForeground

/-! ### The callback operand -/

/-- Invoke the callback operand of AUTO_ENROLL from `FG` (R235). -/
def invokeOperand (cb : Callback) (arg : EnrollStatus) (s : State) : State :=
  match cb with
  | none => s
  | some h => { s with invoked := s.invoked ++ [⟨.operand, h, .enroll arg⟩] }

/-- PARSE_FRAME of `RX[0 .. n)`; an address beyond `RX_CAP` does not exist (R51). -/
def withParsed (n : Nat) (s : State) (k : Verdict → Res) : Res :=
  if n ≤ s.cfg.rxCap then k (parseFrame s.cfg.minAppLen (s.rxBytes 0 n)) else .fault .outsideBuffer

end Sys2Proof.Machine
end

