-- ==== Sys2Proof/Machine/Codec.lean ====
section
/-! DEFINITION. The meanings of the three codec operations (40_codec.md): one atomic step each, no flag, no status. -/

namespace Sys2Proof.Machine

/-! ### The step itself, whoever calls -/

/-- CHECKSUM (R120): reads and writes no state but what it returns. -/
def runChecksum (span : List Byte) (s : State) : Res := .next (answerCaller (.checksum (cks span)) s)

/-- BUILD_FRAME (R122): `TX[0 .. 18 + p)` and nothing else; a payload beyond the precondition has no meaning (R123). -/
def runBuildFrame (command : Half) (payload : List Byte) (s : State) : Res :=
  if fitsTx s payload then .next (answerCaller (.span ⟨0, 18 + payload.length⟩) (putFrame command payload s))
  else .refused .payloadTooLong

/-- PARSE_FRAME (R124) of `RX[0 .. rxsz)`. -/
def runParseFrame (s : State) : Res :=
  withParsed s.rxsz.toNat s (fun v => .next (answerCaller (.verdict v) s))

/-! ### The operations of the host -/

/-- CHECKSUM (R120). -/
def execChecksum (span : List Byte) (s : State) : Res := whenIdle s (runChecksum span s)

/-- BUILD_FRAME (R122). -/
def execBuildFrame (command : Half) (payload : List Byte) (s : State) : Res :=
  whenIdle s (runBuildFrame command payload s)

/-- PARSE_FRAME (R124). -/
def execParseFrame (s : State) : Res := whenIdle s (runParseFrame s)

end Sys2Proof.Machine
end

