-- ==== Sys2Proof/Machine/Flags.lean ====
section
/-! DEFINITION. The two pieces of flag-like state (R41): `rdy` (R23) and the session register `op` (R22).  The block
has no arithmetic condition codes. -/

namespace Sys2Proof.Machine

/-- `rdy <- 0`, before every arm of a synchronous operation (R172, R233). -/
def clearReady (s : State) : State := { s with rdy := false }

/-- `rdy <- 1`, by ON_UART_RECEIVE with no session (R178). -/
def setReady (s : State) : State := { s with rdy := true }

/-- `op <- None`: the roll-back of a START, or the end of a session (R22). -/
def endSession (s : State) : State := { s with op := .none }

/-- `op <- X`, inside the check-and-set of a START (R64). -/
def openSession (x : Session) (s : State) : State := { s with op := x }

end Sys2Proof.Machine
end

