-- ==== Sys2Proof/Machine/Operands.lean ====
section
/-! DEFINITION. The payload layouts: what each request sends (R101) and what each reply is decoded into (43_commands.md,
44_enroll.md, 45_async.md).  A decoder is given the first bytes of the payload, as many as it needs. -/

namespace Sys2Proof.Machine

/-! ### Requests -/

/-- DELETE_FINGERPRINT (R194): mode 0, identifier, two reserved bytes. -/
def deleteOnePayload (fingerId : Half) : List Byte := 0x00 :: bytes16 fingerId ++ [0x00, 0x00]

/-- DELETE_ALL_FINGERPRINTS (R195): mode 1, four reserved bytes. -/
def deleteAllPayload : List Byte := [0x01, 0x00, 0x00, 0x00, 0x00]

/-- ENTER_SLEEP_MODE (R200). -/
def sleepPayload (deep : Bool) : List Byte := [if deep then 0x01 else 0x00]

/-- SET_LED_CONTROL (R201). -/
def ledPayload (info : LedInfo) : List Byte := [info.mode, info.color, info.p0, info.p1, info.p2]

/-- The enrollment request (R232): lift-detection flag 1, presses, identifier. -/
def enrollPayload (fingerId : Half) (presses : Byte) : List Byte := [0x01, presses] ++ bytes16 fingerId

/-! ### Replies -/

/-- The success flag (R193): 0 is false, 1 is true, and any other byte gives a Boolean that nothing constrains. -/
def flagOf (b : Byte) (s : State) : Bool × State :=
  if b = 0 then (false, s) else if b = 1 then (true, s) else drawBool s

/-- A `MatchResult` from flag, score and identifier starting at an offset: 1 for MATCH (R193), 0 for the AsyncMatch
continuation (R255). -/
def decodeMatch (off : Nat) (payload : List Byte) (s : State) : MatchResult × State :=
  let f := flagOf (byteAt payload off) s
  (⟨f.1, be16 (byteAt payload (off + 3)) (byteAt payload (off + 4)),
    be16 (byteAt payload (off + 1)) (byteAt payload (off + 2))⟩, f.2)

/-- IS_FINGER_PRESSED (R192): pressed exactly when the byte is 1. -/
def decodePressed (payload : List Byte) : Bool := decide (byteAt payload 0 = 0x01)

/-- GET_FINGERPRINT_COUNT (R196). -/
def decodeCount (payload : List Byte) : Half := be16 (byteAt payload 0) (byteAt payload 1)

/-- GET_SYSTEM_POLICY (R199): masks 1, 2, 4 of the byte at offset 3. -/
def decodePolicy (payload : List Byte) : SystemPolicy :=
  let b := byteAt payload 3
  ⟨decide (b &&& 0x01 ≠ 0), decide (b &&& 0x02 ≠ 0), decide (b &&& 0x04 ≠ 0)⟩

/-- An enrollment step (R234). -/
def decodeEnroll (payload : List Byte) : EnrollStatus :=
  { isComplete := decide (byteAt payload 0 = 0xFF), step := byteAt payload 0, progress := byteAt payload 3,
    fingerId := be16 (byteAt payload 1) (byteAt payload 2), error := 0 }

/-- The first `need` bytes of a payload span, read from `RX` now (R57): refused when the payload is shorter (R190 d),
a fault when they do not lie in `RX` (R51). -/
def withPayload (need : Nat) (sp : Span) (s : State) (k : List Byte → Res) : Res :=
  if sp.len < need then .refused .payloadTooShort
  else if sp.off + need ≤ s.cfg.rxCap then k (s.rxBytes sp.off need)
  else .fault .outsideBuffer

end Sys2Proof.Machine
end

