-- ==== Sys2Proof/Machine/Dispatcher.lean ====
section
/-! DEFINITION. The command dispatcher (42_dispatcher.md): the numbered steps of SEND_AND_AWAIT, which every wrapper
goes through, and SEND_AND_AWAIT itself. -/

namespace Sys2Proof.Machine

/-- `T_CMD` (R7, R179). -/
def tCmd : Nat := 2000

/-- Step `Check` (R171, R231): `Busy` while a session is active, with no side effect; otherwise on to `next`. -/
def checkStep (next : Phase) (s : State) : State :=
  if s.op ≠ .none then raise .busy 0 s else setPhase next s

/-- Step `Arm` of SEND_AND_AWAIT (R172). -/
def armStep (s : State) : State :=
  let a := startReceive (clearReady s)
  if a.1 then setPhase .send a.2 else raise .receiveError 0 a.2

/-- The start of a wait window (R173, R233). -/
def openWindow (timeoutMs : Nat) (s : State) : State :=
  { s with fg := { s.fg with t0 := s.tick, timeout := timeoutMs, phase := .wait } }

/-- Build the latched request and hand it to the transport, with what happens on each answer. -/
def sendRequest (accepted turnedDown : State → State) (s : State) : Res :=
  if fitsTx s s.fg.payload then
    let t := transmit (18 + s.fg.payload.length) (putFrame s.fg.cmd s.fg.payload s)
    .next (if t.1 then accepted t.2 else turnedDown t.2)
  else .refused .payloadTooLong

/-- Step `Send` of SEND_AND_AWAIT (R173).  A failed transmit leaves the receiver armed. -/
def sendStep (timeoutMs : Nat) (s : State) : Res := sendRequest (openWindow timeoutMs) (raise .transmitError 0) s

/-- Step `Wait` (R174, R238): the flag first, then the clock, and else DELAY_MS(POLL_MS). -/
def waitStep (s : State) : State :=
  if s.rdy then setPhase .parse s
  else if s.fg.timeout < elapsed s then setPhase .abort s
  else { s with fg := { s.fg with sleep := s.cfg.pollMs } }

/-- Step `Abort` (R175). -/
def abortStep (s : State) : State := raise .timeout 0 (abortReceive s)

/-- Step `Parse` (R176): the span goes with `OK` and with `ModuleError` (R177). -/
def parseStep (s : State) : Res :=
  withParsed s.rxsz.toNat s (fun v => match v with
    | .invalid => .next (raise .invalidResponse 0 s)
    | .valid _ err sp =>
      let s := { s with fg := { s.fg with span := some sp } }
      .next (if err ≠ 0 then raise .moduleError err s else raise .ok 0 s))

/-- The numbered steps of SEND_AND_AWAIT (R182), with what the caller of it does at `Done`. -/
def exchangeStep (timeoutMs : Nat) (finish : State → Res) (s : State) : Res :=
  match s.fg.phase with
  | .idle => .next s
  | .check => .next (checkStep .arm s)
  | .arm => .next (armStep s)
  | .send => sendStep timeoutMs s
  | .wait => .next (waitStep s)
  | .abort => .next (abortStep s)
  | .parse => parseStep s
  | .done => finish s

/-- One SEND_AND_AWAIT (R170) on behalf of operation `i`. -/
def exchange (i : Instr) (cmd : Half) (payload : List Byte) (timeoutMs : Nat) (finish : State → Res) (s : State) : Res :=
  operation i (beginCall i cmd payload) (exchangeStep timeoutMs finish) s

/-- SEND_AND_AWAIT (R170 to R177): returns the `CommandResult` and the span. -/
def execSendAndAwait (command : Half) (timeoutMs : Nat) (payload : List Byte) (s : State) : Res :=
  exchange (.sendAndAwait command timeoutMs payload) command payload timeoutMs
    (fun s => .next (returnToCaller (.payload s.fg.span) s)) s

end Sys2Proof.Machine
end

