-- ==== Sys2Proof/Machine/Commands.lean ====
section
/-! DEFINITION. The command wrappers (43_commands.md) and the callback setters.

A wrapper is SEND_AND_AWAIT with a code, a payload and a decoder (R190).  Each exchange is written once over the
operation `i` it is done for, since a request frame named by its command code is the same exchange (assumption 10). -/

namespace Sys2Proof.Machine

/-! ### What a wrapper does at `Done` -/

/-- A wrapper with no decoder (R190). -/
def finishPlain (s : State) : Res := .next (returnToCaller .nothing s)

/-- A wrapper with a decoder (R190): on `OK` the out-value is decoded from the first `need` bytes of the payload, and
with any other status nothing constrains it (R190 c).  An `OK` always comes with its span; were there none, there
would be no payload to decode. -/
def finishDecode (need : Nat) (dec : List Byte → State → OutValue × State) (free : State → OutValue × State)
    (s : State) : Res :=
  if s.fg.result.status = .ok then
    match s.fg.span with
    | some sp => withPayload need sp s (fun p => .next (returnToCaller (dec p s).1 (dec p s).2))
    | none => .refused .payloadTooShort
  else .next (returnToCaller (free s).1 (free s).2)

/-- Out-values that nothing constrains (R190 c, U7), of IS_FINGER_PRESSED, MATCH, GET_FINGERPRINT_COUNT and
GET_SYSTEM_POLICY. -/
def freePressed (s : State) : OutValue × State := (.pressed (drawBool s).1, (drawBool s).2)
def freeMatched (s : State) : OutValue × State := (.matched (drawMatch s).1, (drawMatch s).2)
def freeCount (s : State) : OutValue × State := (.count (drawHalf s).1, (drawHalf s).2)
def freePolicy (s : State) : OutValue × State := (.policy (drawPolicy s).1, (drawPolicy s).2)

/-- SET_PASSWORD at `Done` (R197): `pw` is updated on `OK` and only then. -/
def finishPassword (value : Word) (s : State) : Res :=
  .next (returnToCaller .nothing (if s.fg.result.status = .ok then { s with pw := value } else s))

/-! ### The exchanges -/

/-- INIT's exchange (R191). -/
def heartbeatExchange (i : Instr) (s : State) : Res := exchange i codeHeartbeat [] tCmd finishPlain s

/-- IS_FINGER_PRESSED's exchange (R192). -/
def fingerStatusExchange (i : Instr) (s : State) : Res :=
  exchange i codeFingerStatus [] tCmd
    (finishDecode 1 (fun p s => (.pressed (decodePressed p), s)) freePressed) s

/-- MATCH's exchange (R193): the fields start at payload offset 1, and six bytes are needed. -/
def matchExchange (i : Instr) (s : State) : Res :=
  exchange i codeMatchSync [] tCmd
    (finishDecode 6 (fun p s => (.matched (decodeMatch 1 p s).1, (decodeMatch 1 p s).2)) freeMatched) s

/-- DELETE_FINGERPRINT's exchange (R194). -/
def deleteOneExchange (i : Instr) (fingerId : Half) (s : State) : Res :=
  exchange i codeDelete (deleteOnePayload fingerId) tCmd finishPlain s

/-- DELETE_ALL_FINGERPRINTS's exchange (R195). -/
def deleteAllExchange (i : Instr) (s : State) : Res := exchange i codeDelete deleteAllPayload tCmd finishPlain s

/-- GET_FINGERPRINT_COUNT's exchange (R196). -/
def countExchange (i : Instr) (s : State) : Res :=
  exchange i codeCount [] tCmd
    (finishDecode 2 (fun p s => (.count (decodeCount p), s)) freeCount) s

/-- SET_PASSWORD's exchange (R197) with either code: the frame carries the old password in its header. -/
def passwordExchange (i : Instr) (code : Half) (value : Word) (s : State) : Res :=
  exchange i code (bytes32 value) tCmd (finishPassword value) s

/-- UPDATE_FEATURE_AFTER_MATCH's exchange (R198). -/
def updateFeatureExchange (i : Instr) (fingerId : Half) (s : State) : Res :=
  exchange i codeUpdateFeature (bytes16 fingerId) tCmd finishPlain s

/-- GET_SYSTEM_POLICY's exchange (R199). -/
def policyExchange (i : Instr) (s : State) : Res :=
  exchange i codeGetPolicy [] tCmd
    (finishDecode 4 (fun p s => (.policy (decodePolicy p), s)) freePolicy) s

/-- ENTER_SLEEP_MODE's exchange (R200) with the open code. -/
def sleepExchange (i : Instr) (deep : Bool) (s : State) : Res :=
  exchange i s.cfg.cmdEnterSleep (sleepPayload deep) tCmd finishPlain s

/-- SET_LED_CONTROL's exchange (R201) with the open code. -/
def ledExchange (i : Instr) (info : LedInfo) (s : State) : Res :=
  exchange i s.cfg.cmdSetLed (ledPayload info) tCmd finishPlain s

/-! ### The wrappers -/

/-- INIT (R191). -/
def execInit (s : State) : Res := heartbeatExchange .init s

/-- IS_FINGER_PRESSED (R192). -/
def execIsFingerPressed (s : State) : Res := fingerStatusExchange .isFingerPressed s

/-- MATCH (R193). -/
def execMatchFinger (s : State) : Res := matchExchange .matchFinger s

/-- DELETE_FINGERPRINT (R194). -/
def execDeleteFingerprint (fingerId : Half) (s : State) : Res := deleteOneExchange (.deleteFingerprint fingerId) fingerId s

/-- DELETE_ALL_FINGERPRINTS (R195). -/
def execDeleteAllFingerprints (s : State) : Res := deleteAllExchange .deleteAllFingerprints s

/-- GET_FINGERPRINT_COUNT (R196). -/
def execGetFingerprintCount (s : State) : Res := countExchange .getFingerprintCount s

/-- SET_PASSWORD (R197). -/
def execSetPassword (value : Word) (writeToFlash : Bool) (s : State) : Res :=
  passwordExchange (.setPassword value writeToFlash) (if writeToFlash then codeSetPasswordFlash else codeSetPasswordTemp)
    value s

/-- UPDATE_FEATURE_AFTER_MATCH (R198). -/
def execUpdateFeatureAfterMatch (fingerId : Half) (s : State) : Res :=
  updateFeatureExchange (.updateFeatureAfterMatch fingerId) fingerId s

/-- GET_SYSTEM_POLICY (R199). -/
def execGetSystemPolicy (s : State) : Res := policyExchange .getSystemPolicy s

/-- ENTER_SLEEP_MODE (R200): no state of the block sleeps (R304). -/
def execEnterSleepMode (deep : Bool) (s : State) : Res := sleepExchange (.enterSleepMode deep) deep s

/-- SET_LED_CONTROL (R201). -/
def execSetLedControl (info : LedInfo) (s : State) : Res := ledExchange (.setLedControl info) info s

/-! ### The setters (R202 to R204): one atomic step, no `CommandResult`, `op` not read -/

/-- The step of SET_MATCH_CALLBACK (R202), whoever calls. -/
def runSetMatchCallback (cb : Callback) (s : State) : Res := .next (answerCaller .nothing { s with cbMatch := cb })

/-- The step of SET_ENROLL_PROGRESS_CALLBACK (R203), whoever calls. -/
def runSetEnrollProgressCallback (cb : Callback) (s : State) : Res :=
  .next (answerCaller .nothing { s with cbProgress := cb })

/-- The step of SET_ENROLL_COMPLETE_CALLBACK (R204), whoever calls. -/
def runSetEnrollCompleteCallback (cb : Callback) (s : State) : Res :=
  .next (answerCaller .nothing { s with cbComplete := cb })

/-- SET_MATCH_CALLBACK (R202). -/
def execSetMatchCallback (cb : Callback) (s : State) : Res := whenIdle s (runSetMatchCallback cb s)

/-- SET_ENROLL_PROGRESS_CALLBACK (R203). -/
def execSetEnrollProgressCallback (cb : Callback) (s : State) : Res :=
  whenIdle s (runSetEnrollProgressCallback cb s)

/-- SET_ENROLL_COMPLETE_CALLBACK (R204). -/
def execSetEnrollCompleteCallback (cb : Callback) (s : State) : Res :=
  whenIdle s (runSetEnrollCompleteCallback cb s)

end Sys2Proof.Machine
end

