-- ==== Sys2Proof/Machine/Transport.lean ====
section
/-! DEFINITION. The meanings of the transport operations (41_transport.md).  None raises a `Status`. -/

namespace Sys2Proof.Machine

/-! ### The step itself, whoever calls -/

/-- START_RECEIVE (R141). -/
def runStartReceive (s : State) : Res := .next (answerCaller (.answer (startReceive s).1) (startReceive s).2)

/-- TRANSMIT (R142) of the span `(0, len)` of `TX`; a span beyond `TX_CAP` does not exist (R51). -/
def runTransmit (len : Nat) (s : State) : Res :=
  if len ≤ s.cfg.txCap then .next (answerCaller (.answer (transmit len s).1) (transmit len s).2)
  else .fault .outsideBuffer

/-- ABORT_RECEIVE (R143). -/
def runAbortReceive (s : State) : Res := .next (answerCaller .nothing (abortReceive s))

/-- GET_TICK (R144). -/
def runGetTick (s : State) : Res := .next (answerCaller (.tick s.tick) s)

/-! ### The operations of the host -/

/-- START_RECEIVE (R141). -/
def execStartReceive (s : State) : Res := whenIdle s (runStartReceive s)

/-- TRANSMIT (R142). -/
def execTransmit (len : Nat) (s : State) : Res := whenIdle s (runTransmit len s)

/-- ABORT_RECEIVE (R143). -/
def execAbortReceive (s : State) : Res := whenIdle s (runAbortReceive s)

/-- GET_TICK (R144). -/
def execGetTick (s : State) : Res := whenIdle s (runGetTick s)

/-- The call of DELAY_MS: `FG` is suspended for `d` milliseconds (R145). -/
def beginDelay (i : Instr) (d : Nat) (s : State) : State :=
  { s with fg := { s.fg with phase := .done, instr := some i, sleep := d } }

/-- DELAY_MS (R145): the call suspends `FG`; the step after the delay returns.  The fetch gives `FG` no step before
`fg.sleep` is 0, and this meaning does not return before that either. -/
def execDelayMs (d : Nat) (s : State) : Res :=
  operation (.delayMs d) (beginDelay (.delayMs d) d)
    (fun s => if s.fg.sleep = 0 then
        .next (answerCaller .nothing { s with fg := { s.fg with phase := .idle, instr := none } })
      else .next s) s

/-- ON_TRANSMIT_COMPLETE (R153): empties `pend.tx` and changes nothing else. -/
def execOnTransmitComplete (s : State) : Res := .next { s with pend := { s.pend with tx := false } }

end Sys2Proof.Machine
end

