-- ==== Sys2Proof/Machine/Callbacks.lean ====
section
/-! DEFINITION. The registered callbacks, invoked from `IRQ` (45_async.md R260): what their host code calls, and whether
it returns.  The code itself is outside the block (R5); what it does to the block is the next entry of `bodies`
(assumption 16). -/

namespace Sys2Proof.Machine

/-- An operation called from inside a callback.  `op` is not None there, so every operation that uses the line is
answered `Busy` (R260 d, R261) with the out-value it has with that status (R177, R190 c, R241).  An operation of one
step is the step of its rule.  ON_UART_RECEIVE is not the transport's notification (R324); ON_TRANSMIT_COMPLETE changes
nothing (R153), and its pending entry waits, since handlers do not nest (R296); a reply is no operation of the host. -/
def callFromCallback (i : Instr) (s : State) : Res :=
  match i with
  | .checksum b => runChecksum b s
  | .buildFrame cmd p => runBuildFrame cmd p s
  | .parseFrame => runParseFrame s
  | .startReceive => runStartReceive s
  | .transmit n => runTransmit n s
  | .abortReceive => runAbortReceive s
  | .getTick => runGetTick s
  | .delayMs _ => .next (answerCaller .nothing s)
  | .onUartReceive _ => .refused .spuriousNotification
  | .onTransmitComplete | .response _ _ _ _ => .next s
  | .setMatchCallback cb => runSetMatchCallback cb s
  | .setEnrollProgressCallback cb => runSetEnrollProgressCallback cb s
  | .setEnrollCompleteCallback cb => runSetEnrollCompleteCallback cb s
  | .sendAndAwait _ _ _ => .next (answerBusy (.payload none) s)
  | .isFingerPressed | .cmdFingerStatus => .next (answerBusy (freePressed s).1 (freePressed s).2)
  | .matchFinger | .cmdMatchSync => .next (answerBusy (freeMatched s).1 (freeMatched s).2)
  | .getFingerprintCount | .cmdCount => .next (answerBusy (freeCount s).1 (freeCount s).2)
  | .getSystemPolicy | .cmdGetPolicy => .next (answerBusy (freePolicy s).1 (freePolicy s).2)
  | .autoEnroll _ _ _ | .cmdAutoEnroll _ _ => .next (answerBusy (.enrolled EnrollStatus.zero) s)
  | .init | .cmdHeartbeat | .startAsyncMatch | .cmdMatchAsync | .startAsyncEnroll _ _ | .deleteFingerprint _
  | .cmdDeleteOne _ | .deleteAllFingerprints | .cmdDeleteAll | .setPassword _ _ | .cmdSetPasswordFlash _
  | .cmdSetPasswordTemp _ | .updateFeatureAfterMatch _ | .cmdUpdateFeature _ | .enterSleepMode _ | .cmdEnterSleep _
  | .setLedControl _ | .cmdSetLed _ => .next (answerBusy .nothing s)

/-- A call that blocks its callback (R260 c): only DELAY_MS waits, for there `Busy` is returned at once. -/
def blocks : Instr → Bool
  | .delayMs d => decide (0 < d)
  | _ => false

/-- A callback that does not return stops `IRQ` and `FG` (R260 c, R296). -/
def hang (s : State) : State := { s with hung := true }

/-- The calls a callback makes, in order, and then `k`; one that blocks is the last. -/
def runCalls : List Instr → (State → Res) → State → Res
  | [], k, s => k s
  | i :: is, k, s =>
    if blocks i then .next (hang s)
    else match callFromCallback i s with
      | .next t => runCalls is k t
      | .fault e => .fault e
      | .refused r => .refused r

/-- The body of a callback, and then `k` if it returns. -/
def runBody (b : CallbackBody) (k : State → Res) (s : State) : Res :=
  runCalls b.calls (fun t => if b.returns then k t else .next (hang t)) s

/-- The invocation as the host observes it (R325). -/
def recordCall (role : CallbackRole) (h : Handle) (arg : CallbackArg) (s : State) : State :=
  { s with invoked := s.invoked ++ [⟨role, h, arg⟩] }

/-- Invoke a registered callback with its argument, and go on with `k` when it has returned.  An unset one is skipped
(R260 a).  With no entry left in `bodies` it returns and calls nothing (assumption 16). -/
def invokeRegistered (role : CallbackRole) (cb : Callback) (arg : CallbackArg) (k : State → Res) (s : State) : Res :=
  match cb with
  | none => k s
  | some h =>
    match s.bodies with
    | b :: r => runBody b k { recordCall role h arg s with bodies := r }
    | [] => k (recordCall role h arg s)

end Sys2Proof.Machine
end

