-- ==== Sys2Proof/Machine/Async.lean ====
section
/-! DEFINITION. The asynchronous session (45_async.md): the two STARTs, and the notification entry ON_UART_RECEIVE with
its continuation. -/

namespace Sys2Proof.Machine

/-! ### Starting a session -/

/-- Step S1 (R251, R64): the check-and-set of `op`, one atomic step. -/
def startCheckStep (x : Session) (s : State) : State :=
  if s.op ≠ .none then raise .busy 0 s else setPhase .arm (openSession x s)

/-- Step S2 (R251): a failed arm rolls `op` back. -/
def startArmStep (s : State) : State :=
  let a := startReceive s
  if a.1 then setPhase .send a.2 else raise .receiveError 0 (endSession a.2)

/-- Step S3 (R251): a failed transmit rolls `op` back and leaves the receiver armed. -/
def startSendStep (s : State) : Res :=
  sendRequest (raise .asyncInProgress 0) (fun s => raise .transmitError 0 (endSession s)) s

/-- The steps of a START.  It never waits, so three of the sequencer's steps are not its own. -/
def startStep (x : Session) (s : State) : Res :=
  match s.fg.phase with
  | .idle => .next s
  | .check => .next (startCheckStep x s)
  | .arm => .next (startArmStep s)
  | .send => startSendStep s
  | .wait => .next s
  | .abort => .next s
  | .parse => .next s
  | .done => .next (returnToCaller .nothing s)

/-- One START of an asynchronous match on behalf of operation `i` (R251). -/
def asyncMatchStart (i : Instr) (s : State) : Res :=
  operation i (beginCall i codeMatchAsync []) (startStep .asyncMatch) s

/-- START_ASYNC_MATCH (R251). -/
def execStartAsyncMatch (s : State) : Res := asyncMatchStart .startAsyncMatch s

/-- START_ASYNC_ENROLL (R252): the request of the synchronous enrollment. -/
def execStartAsyncEnroll (fingerId : Half) (presses : Byte) (s : State) : Res :=
  operation (.startAsyncEnroll fingerId presses)
    (beginCall (.startAsyncEnroll fingerId presses) codeAutoEnroll (enrollPayload fingerId presses))
    (startStep .asyncEnroll) s

/-! ### The continuation -/

/-- The end of a session (R22). -/
def finishSession (s : State) : Res := .next (endSession s)

/-- The end of the AsyncMatch continuation (R255): the callback once, and after it returned `op <- None`. -/
def matchReport (m : MatchResult) (s : State) : Res :=
  invokeRegistered .onMatch s.cbMatch (.matched m) finishSession s

/-- The AsyncMatch continuation (R255): the fields start at payload offset 0.  With a module error or fewer than five
payload bytes nothing constrains the result. -/
def matchContinuation (err : Word) (sp : Span) (s : State) : Res :=
  if err ≠ 0 ∨ sp.len < 5 then matchReport (drawMatch s).1 (drawMatch s).2
  else withPayload 5 sp s (fun p => matchReport (decodeMatch 0 p s).1 (decodeMatch 0 p s).2)

/-- The re-arm of the AsyncEnroll continuation (R256); a failure ends the session (R257). -/
def rearm (s : State) : State :=
  let a := startReceive s
  if a.1 then a.2 else endSession a.2

/-- After the progress callback of the AsyncEnroll continuation (R256, R257). -/
def enrollAdvance (st : EnrollStatus) (s : State) : Res :=
  if st.isComplete then invokeRegistered .onComplete s.cbComplete (.enroll st) finishSession s else .next (rearm s)

/-- The AsyncEnroll continuation with its status built (R256): progress callback, then the rest. -/
def enrollReport (st : EnrollStatus) (s : State) : Res :=
  invokeRegistered .onProgress s.cbProgress (.enroll st) (enrollAdvance st) s

/-- The AsyncEnroll continuation (R256): with a module error the payload is not decoded. -/
def enrollContinuation (err : Word) (sp : Span) (s : State) : Res :=
  if err ≠ 0 then enrollReport { EnrollStatus.zero with isComplete := true, error := err } s
  else withPayload 4 sp s (fun p => enrollReport (decodeEnroll p) s)

/-- The continuation (R253): an invalid frame ends the session silently (R254). -/
def continuation (s : State) : Res :=
  withParsed s.rxsz.toNat s (fun v => match v with
    | .invalid => .next (endSession s)
    | .valid _ err sp => if s.op = .asyncMatch then matchContinuation err sp s else enrollContinuation err sp s)

/-- The notification is taken and its size recorded (R178, R293 c). -/
def recordReceive (size : Half) (s : State) : State := { s with pend := { s.pend with rx := none }, rxsz := size }

/-- What the handler does once the notification is taken (R178, R253). -/
def handleReceive (size : Half) (s : State) : Res :=
  if s.op = .none then .next (setReady (recordReceive size s)) else continuation (recordReceive size s)

/-- ON_UART_RECEIVE (R178, R253): only the transport's notification, with the size it reports, may run it (R324), and a
size is at most `RX_CAP` (R24). -/
def execOnUartReceive (size : Half) (s : State) : Res :=
  if s.pend.rx = some size then
    if size.toNat ≤ s.cfg.rxCap then handleReceive size s else .fault .outsideBuffer
  else .refused .spuriousNotification

end Sys2Proof.Machine
end

