-- ==== Sys2Proof/Machine/Enroll.lean ====
section
/-! DEFINITION. The synchronous enrollment AUTO_ENROLL (44_enroll.md): one request, sent before the first arm, and then
a loop of arm, wait and parse. -/

namespace Sys2Proof.Machine

/-- `T_ENROLL_STEP` (R7, R238). -/
def tEnrollStep : Nat := 15000

/-- Step `Send` (R232): the request goes out once, with the receiver not yet armed. -/
def enrollSendStep (s : State) : Res := sendRequest (setPhase .arm) (raise .transmitError 0) s

/-- Loop step `Arm` (R233): the window restarts at every step. -/
def enrollArmStep (s : State) : State :=
  let a := startReceive (clearReady s)
  if a.1 then openWindow tEnrollStep a.2 else raise .receiveError 0 a.2

/-- A decoded step (R234, R235, R240): the status is kept, the callback operand is invoked, and `0xFF` completes. -/
def enrollDecoded (progress : Callback) (st : EnrollStatus) (s : State) : State :=
  let s := invokeOperand progress st { s with fg := { s.fg with enroll := st } }
  if st.isComplete then raise .ok 0 s else setPhase .arm s

/-- Loop step `Parse` (R234 to R236, R239, R240).  A module error ends the loop with no callback for that step. -/
def enrollParseStep (progress : Callback) (s : State) : Res :=
  withParsed s.rxsz.toNat s (fun v => match v with
    | .invalid => .next (raise .invalidResponse 0 s)
    | .valid _ err sp =>
      if err ≠ 0 then
        .next (raise .moduleError err
          { s with fg := { s.fg with enroll := { s.fg.enroll with isComplete := true, error := err } } })
      else withPayload 4 sp s (fun p => .next (enrollDecoded progress (decodeEnroll p) s)))

/-- The numbered steps (R242). -/
def enrollStep (progress : Callback) (s : State) : Res :=
  match s.fg.phase with
  | .idle => .next s
  | .check => .next (checkStep .send s)
  | .send => enrollSendStep s
  | .arm => .next (enrollArmStep s)
  | .wait => .next (waitStep s)
  | .abort => .next (abortStep s)
  | .parse => enrollParseStep progress s
  | .done => .next (returnToCaller (.enrolled s.fg.enroll) s)

/-- One synchronous enrollment on behalf of operation `i`. -/
def enrollment (i : Instr) (fingerId : Half) (presses : Byte) (progress : Callback) (s : State) : Res :=
  operation i (beginCall i codeAutoEnroll (enrollPayload fingerId presses)) (enrollStep progress) s

/-- AUTO_ENROLL (R230). -/
def execAutoEnroll (fingerId : Half) (presses : Byte) (progress : Callback) (s : State) : Res :=
  enrollment (.autoEnroll fingerId presses progress) fingerId presses progress s

end Sys2Proof.Machine
end

