-- ==== Sys2Proof/Machine/Requests.lean ====
section
/-! DEFINITION. The frames as instructions: the 14 request frames of format `APP_OUT` and the reply of format `APP_IN`.

A row of format `APP_OUT` names a request by its command code, and the row's rule is that of the operation that sends
it; as an instruction it is that operation's exchange with the row's code, payload and reply (assumption 10).  A reply
is something the peer sends: as an instruction it is the peer's step (b) with the frame of R86 (assumption 11). -/

namespace Sys2Proof.Machine

/-- CMD_HEARTBEAT (R191). -/
def execCmdHeartbeat (s : State) : Res := heartbeatExchange .cmdHeartbeat s

/-- CMD_AUTO_ENROLL (R232): the synchronous enrollment, with no callback operand in the frame. -/
def execCmdAutoEnroll (presses : Byte) (fingerId : Half) (s : State) : Res :=
  enrollment (.cmdAutoEnroll presses fingerId) fingerId presses none s

/-- CMD_MATCH_SYNC (R193). -/
def execCmdMatchSync (s : State) : Res := matchExchange .cmdMatchSync s

/-- CMD_MATCH_ASYNC (R251). -/
def execCmdMatchAsync (s : State) : Res := asyncMatchStart .cmdMatchAsync s

/-- CMD_DELETE.ONE (R194). -/
def execCmdDeleteOne (fingerId : Half) (s : State) : Res := deleteOneExchange (.cmdDeleteOne fingerId) fingerId s

/-- CMD_DELETE.ALL (R195). -/
def execCmdDeleteAll (s : State) : Res := deleteAllExchange .cmdDeleteAll s

/-- CMD_FINGER_STATUS (R192). -/
def execCmdFingerStatus (s : State) : Res := fingerStatusExchange .cmdFingerStatus s

/-- CMD_COUNT (R196). -/
def execCmdCount (s : State) : Res := countExchange .cmdCount s

/-- CMD_SET_PASSWORD_FLASH (R197). -/
def execCmdSetPasswordFlash (value : Word) (s : State) : Res :=
  passwordExchange (.cmdSetPasswordFlash value) codeSetPasswordFlash value s

/-- CMD_SET_PASSWORD_TEMP (R197). -/
def execCmdSetPasswordTemp (value : Word) (s : State) : Res :=
  passwordExchange (.cmdSetPasswordTemp value) codeSetPasswordTemp value s

/-- CMD_UPDATE_FEATURE (R198). -/
def execCmdUpdateFeature (fingerId : Half) (s : State) : Res := updateFeatureExchange (.cmdUpdateFeature fingerId) fingerId s

/-- CMD_GET_POLICY (R199). -/
def execCmdGetPolicy (s : State) : Res := policyExchange .cmdGetPolicy s

/-- CMD_ENTER_SLEEP (R200). -/
def execCmdEnterSleep (deep : Bool) (s : State) : Res := sleepExchange (.cmdEnterSleep deep) deep s

/-- CMD_SET_LED (R201). -/
def execCmdSetLed (info : LedInfo) (s : State) : Res := ledExchange (.cmdSetLed info) info s

/-- RESPONSE (R86, R125, R160): the peer sends the inbound frame; `RXE` delivers it (R150), its notification is taken
(R154), and PARSE_FRAME gives its fields back (R125, R129).  A payload that does not fit the length field makes no
frame. -/
def execResponse (ack : Half) (pwEcho err : Word) (payload : List Byte) (s : State) : Res :=
  if payload.length ≤ maxInPayload then .next (peerSend (inFrame pwEcho ack err payload) s)
  else .refused .replyTooLong

end Sys2Proof.Machine
end

