-- ==== Sys2Proof/Machine/Dispatch.lean ====
section
/-! DEFINITION. The meaning of every instruction: one arm per constructor. -/

namespace Sys2Proof.Machine

/-- The meaning of an instruction.  For an operation of many steps it is the call when the sequencer is idle and
otherwise the operation's next numbered step. -/
def exec (i : Instr) (s : State) : Host.Outcome State Fault Refusal :=
  match i with
  | .checksum b => Sys2Proof.Machine.execChecksum b s
  | .buildFrame cmd p => Sys2Proof.Machine.execBuildFrame cmd p s
  | .parseFrame => Sys2Proof.Machine.execParseFrame s
  | .startReceive => Sys2Proof.Machine.execStartReceive s
  | .transmit n => Sys2Proof.Machine.execTransmit n s
  | .abortReceive => Sys2Proof.Machine.execAbortReceive s
  | .getTick => Sys2Proof.Machine.execGetTick s
  | .delayMs d => Sys2Proof.Machine.execDelayMs d s
  | .onUartReceive n => Sys2Proof.Machine.execOnUartReceive n s
  | .onTransmitComplete => Sys2Proof.Machine.execOnTransmitComplete s
  | .sendAndAwait cmd t p => Sys2Proof.Machine.execSendAndAwait cmd t p s
  | .init => Sys2Proof.Machine.execInit s
  | .isFingerPressed => Sys2Proof.Machine.execIsFingerPressed s
  | .matchFinger => Sys2Proof.Machine.execMatchFinger s
  | .autoEnroll f n cb => Sys2Proof.Machine.execAutoEnroll f n cb s
  | .startAsyncMatch => Sys2Proof.Machine.execStartAsyncMatch s
  | .startAsyncEnroll f n => Sys2Proof.Machine.execStartAsyncEnroll f n s
  | .deleteFingerprint f => Sys2Proof.Machine.execDeleteFingerprint f s
  | .deleteAllFingerprints => Sys2Proof.Machine.execDeleteAllFingerprints s
  | .getFingerprintCount => Sys2Proof.Machine.execGetFingerprintCount s
  | .setPassword v fl => Sys2Proof.Machine.execSetPassword v fl s
  | .updateFeatureAfterMatch f => Sys2Proof.Machine.execUpdateFeatureAfterMatch f s
  | .getSystemPolicy => Sys2Proof.Machine.execGetSystemPolicy s
  | .enterSleepMode d => Sys2Proof.Machine.execEnterSleepMode d s
  | .setLedControl l => Sys2Proof.Machine.execSetLedControl l s
  | .setMatchCallback cb => Sys2Proof.Machine.execSetMatchCallback cb s
  | .setEnrollProgressCallback cb => Sys2Proof.Machine.execSetEnrollProgressCallback cb s
  | .setEnrollCompleteCallback cb => Sys2Proof.Machine.execSetEnrollCompleteCallback cb s
  | .cmdHeartbeat => Sys2Proof.Machine.execCmdHeartbeat s
  | .cmdAutoEnroll n f => Sys2Proof.Machine.execCmdAutoEnroll n f s
  | .cmdMatchSync => Sys2Proof.Machine.execCmdMatchSync s
  | .cmdMatchAsync => Sys2Proof.Machine.execCmdMatchAsync s
  | .cmdDeleteOne f => Sys2Proof.Machine.execCmdDeleteOne f s
  | .cmdDeleteAll => Sys2Proof.Machine.execCmdDeleteAll s
  | .cmdFingerStatus => Sys2Proof.Machine.execCmdFingerStatus s
  | .cmdCount => Sys2Proof.Machine.execCmdCount s
  | .cmdSetPasswordFlash v => Sys2Proof.Machine.execCmdSetPasswordFlash v s
  | .cmdSetPasswordTemp v => Sys2Proof.Machine.execCmdSetPasswordTemp v s
  | .cmdUpdateFeature f => Sys2Proof.Machine.execCmdUpdateFeature f s
  | .cmdGetPolicy => Sys2Proof.Machine.execCmdGetPolicy s
  | .cmdEnterSleep d => Sys2Proof.Machine.execCmdEnterSleep d s
  | .cmdSetLed l => Sys2Proof.Machine.execCmdSetLed l s
  | .response ack pw err p => Sys2Proof.Machine.execResponse ack pw err p s

end Sys2Proof.Machine
end

