-- ==== Sys2Proof/Machine/Fetch.lean ====
section
/-! DEFINITION. What the next step is: the head of the script says which agent moves (R12), and here stand the rules
of who may move (R293, R296, R331) and where each agent takes its instruction from. -/

namespace Sys2Proof.Machine

/-- Who runs an instruction. -/
inductive Agent where
  | foreground
  | notification
  | peer
  deriving DecidableEq, Repr

/-- `IRQ` runs the two entry points, `PEER` sends the reply frame, and `FG` runs everything else (R12, R298). -/
def agentOf : Instr → Agent
  | .onUartReceive _ => .notification
  | .onTransmitComplete => .notification
  | .response _ _ _ _ => .peer
  | _ => .foreground

/-- What the next step does. -/
inductive Fetched where
  /-- An instruction runs in this state. -/
  | run (i : Instr) (s : State)
  /-- A step that is no instruction of the table, with its outcome. -/
  | moved (s : State)
  /-- The issued bytes have no meaning. -/
  | refused (r : Refusal)
  deriving DecidableEq, Repr

/-- The pending notification that is taken next: receive-complete before transmit-complete (R293 d).  `IRQ` takes
ON_UART_RECEIVE and its size from `pend.rx`, and ON_TRANSMIT_COMPLETE from `pend.tx`. -/
def pendingHandler (s : State) : Option Instr :=
  match s.pend.rx with
  | some k => some (.onUartReceive k)
  | none => if s.pend.tx then some .onTransmitComplete else none

/-- `IRQ` moves: the pending handler, if there is one and no callback hangs (R296). -/
def fetchIrq (s : State) : Fetched :=
  if s.hung then .moved s
  else match pendingHandler s with
    | some h => .run h s
    | none => .moved s

/-- `FG` moves.  While a callback hangs it cannot (R296).  While a notification is pending that is taken first and the
foreground step is still to come (R293 d, R294 e): `before` is the state with the event still in the script, `after`
the state without it. -/
def fetchForeground (before after : State) (go : State → Fetched) : Fetched :=
  if after.hung then .moved after
  else match pendingHandler before with
    | some h => .run h before
    | none => go after

/-- `FG` takes the next step of the operation in progress; while DELAY_MS suspends it, or with no operation in
progress, nothing happens. -/
def fetchNextStep (s : State) : Fetched :=
  if s.fg.phase = .idle then .moved s
  else if s.fg.sleep ≠ 0 then .moved s
  else match s.fg.instr with
    | some i => .run i s
    | none => .moved s

/-- `FG` begins an operation; a second one while one is in progress has no meaning (R324, R331). -/
def fetchCall (i : Instr) (s : State) : Fetched :=
  if s.fg.phase = .idle then .run i s else .refused .overlappingForeground

/-- An entry point of the notification context is issued.  While a receive-complete is pending, transmit-complete is not
handled before it (R293 d): the pending handler runs and the event is still to come. -/
def fetchEntry (i : Instr) (before after : State) : Fetched :=
  if after.hung then .moved after
  else match i, before.pend.rx with
    | .onTransmitComplete, some k => .run (.onUartReceive k) before
    | _, _ => .run i after

/-- The bytes of an instruction are issued. -/
def fetchIssued (fmt : Format) (bytes : List Byte) (before after : State) : Fetched :=
  match decode after.cfg fmt bytes with
  | .reject e => .refused (.undecodable e)
  | .ok i =>
    match agentOf i with
    | .foreground => fetchForeground before after (fetchCall i)
    | .notification => fetchEntry i before after
    | .peer => .run i after

/-- The state with the head of the script taken off. -/
def dropEvent (s : State) : State := { s with script := s.script.tail }

/-- The fetch.  With nothing left in the script no agent moves. -/
def fetch (s : State) : Fetched :=
  match s.script with
  | [] => .moved s
  | .issue fmt bytes :: _ => fetchIssued fmt bytes s (dropEvent s)
  | .fg :: _ => fetchForeground s (dropEvent s) fetchNextStep
  | .irq :: _ => fetchIrq (dropEvent s)
  | .rxe :: _ => .moved (rxeStep (dropEvent s))
  | .txe :: _ => .moved (txeStep (dropEvent s))
  | .peerTake :: _ => .moved (peerTake (dropEvent s))
  | .peerSend b :: _ => .moved (peerSend b (dropEvent s))
  | .tick :: _ => .moved (tickStep (dropEvent s))

/-! ### Placing an instruction -/

/-- The pending entry that an issued entry point needs: ON_UART_RECEIVE is a notification with its size (R324). -/
def pendFor : Instr → Pend
  | .onUartReceive k => ⟨some k, false⟩
  | _ => ⟨none, false⟩

/-- `s` with an instruction placed so that the very next step runs it: its bytes at the head of the script, no
foreground operation in progress, no callback hanging, and nothing pending but what the instruction itself answers. -/
def placeInstr (fmt : Format) (bytes : List Byte) (s : State) : State :=
  { s with script := .issue fmt bytes :: s.script, hung := false, fg := { s.fg with phase := .idle, instr := none },
           pend := (match decode s.cfg fmt bytes with
                    | .ok i => pendFor i
                    | .reject _ => ⟨none, false⟩) }

end Sys2Proof.Machine
end

