-- ==== Sys2Proof/Machine/Step.lean ====
section
/-! DEFINITION. One step of the machine: one step of one agent (R12, R58). -/

namespace Sys2Proof.Machine

/-- The next step. -/
def step (s : State) : Host.Outcome State Fault Refusal :=
  match fetch s with
  | .run i s' => exec i s'
  | .moved s' => .next s'
  | .refused r => .refused r

/-- `s` with a word of spec/opcode_table.json placed where the next step fetches its instruction. -/
def State.withFetchWord (s : State) (nbits w : Nat) : State :=
  match tableBytes nbits w with
  | some (fmt, bytes) => placeInstr fmt bytes s
  | none => s

end Sys2Proof.Machine
end

