-- ==== Sys2Proof/Safety.lean ====
section
/-! DEFINITION. The terms in which claims are stated: which operations are of which kind, what a request carries (the
table of R101, written out from the spec and not from the meanings), the invariant of the machine, and the end of a run
(R325). -/

namespace Sys2Proof.Machine

/-! ### Kinds of operation -/

/-- The code and the payload each synchronous request carries (R101), `none` for an operation that is not one
SEND_AND_AWAIT. -/
def exchangeRequest (c : Config) : Instr → Option (Half × List Byte)
  | .sendAndAwait cmd _ p => some (cmd, p)
  | .init | .cmdHeartbeat => some (0x0303, [])
  | .isFingerPressed | .cmdFingerStatus => some (0x0135, [])
  | .matchFinger | .cmdMatchSync => some (0x0123, [])
  | .deleteFingerprint f | .cmdDeleteOne f => some (0x0131, [0x00] ++ bytes16 f ++ [0x00, 0x00])
  | .deleteAllFingerprints | .cmdDeleteAll => some (0x0131, [0x01, 0x00, 0x00, 0x00, 0x00])
  | .getFingerprintCount | .cmdCount => some (0x0203, [])
  | .setPassword v true | .cmdSetPasswordFlash v => some (0x0305, bytes32 v)
  | .setPassword v false | .cmdSetPasswordTemp v => some (0x0201, bytes32 v)
  | .updateFeatureAfterMatch f | .cmdUpdateFeature f => some (0x0116, bytes16 f)
  | .getSystemPolicy | .cmdGetPolicy => some (0x02FB, [])
  | .enterSleepMode d | .cmdEnterSleep d => some (c.cmdEnterSleep, [if d then 0x01 else 0x00])
  | .setLedControl l | .cmdSetLed l => some (c.cmdSetLed, [l.mode, l.color, l.p0, l.p1, l.p2])
  | _ => none

/-- The window of a synchronous request (R179): SEND_AND_AWAIT's operand, and 2000 ms for every wrapper. -/
def exchangeWindow : Instr → Nat
  | .sendAndAwait _ t _ => t
  | _ => 2000

/-- The synchronous enrollment's operands (R230, R232). -/
def enrollOperands : Instr → Option (Half × Byte × Callback)
  | .autoEnroll f n cb => some (f, n, cb)
  | .cmdAutoEnroll n f => some (f, n, none)
  | _ => none

/-- The session a START opens and the request it sends (R251, R252). -/
def startRequest : Instr → Option (Session × Half × List Byte)
  | .startAsyncMatch | .cmdMatchAsync => some (.asyncMatch, 0x0121, [])
  | .startAsyncEnroll f n => some (.asyncEnroll, 0x0118, [0x01, n] ++ bytes16 f)
  | _ => none

/-- The synchronous operations: one SEND_AND_AWAIT, or the enrollment. -/
def isSync (i : Instr) : Bool := (exchangeRequest Config.default i).isSome || (enrollOperands i).isSome

/-- The operations that open an asynchronous session. -/
def isStart (i : Instr) : Bool := (startRequest i).isSome

/-- The operations that use the line and are answered `Busy` while a session is active (R261, R287). -/
def usesLine (i : Instr) : Bool := isSync i || isStart i

/-- The value SET_PASSWORD would give `pw` (R197). -/
def newPassword : Instr → Option Word
  | .setPassword v _ | .cmdSetPasswordFlash v | .cmdSetPasswordTemp v => some v
  | _ => none

/-- The requests whose reply carries no out-value (R191, R194, R195, R198, R200, R201). -/
def isPlain : Instr → Bool
  | .init | .cmdHeartbeat | .deleteFingerprint _ | .cmdDeleteOne _ | .deleteAllFingerprints | .cmdDeleteAll
  | .updateFeatureAfterMatch _ | .cmdUpdateFeature _ | .enterSleepMode _ | .cmdEnterSleep _ | .setLedControl _
  | .cmdSetLed _ => true
  | _ => false

/-- How many payload bytes a wrapper's decoder reads (R192, R193, R196, R199), `none` for a wrapper with no decoder. -/
def decoderNeed : Instr → Option Nat
  | .isFingerPressed | .cmdFingerStatus => some 1
  | .matchFinger | .cmdMatchSync => some 6
  | .getFingerprintCount | .cmdCount => some 2
  | .getSystemPolicy | .cmdGetPolicy => some 4
  | _ => none

/-- A number of successive steps of one operation, with no other agent between them. -/
def execTimes (i : Instr) : Nat → State → Res
  | 0, s => .next s
  | n + 1, s =>
    match exec i s with
    | .next t => execTimes i n t
    | .fault e => .fault e
    | .refused r => .refused r

/-! ### The invariant -/

/-- `error` is not 0 exactly when the status is `ModuleError` (R34, R282), and no rule returns `UnknownError` (R289). -/
def CommandResult.sound (r : CommandResult) : Bool :=
  decide (r.status ≠ .unknownError) && decide (r.status = .moduleError ↔ r.error ≠ 0)

/-- Every listed address exists (R51). -/
def Memory.below (cap : Nat) (m : Memory) : Bool := m.all (fun c => decide (c.1 < cap))

/-- The steps of a synchronous operation after its `Check` and before its return. -/
def Phase.underway : Phase → Bool
  | .arm | .send | .wait | .abort | .parse => true
  | _ => false

/-- The steps in which an operation waits for a reply. -/
def Phase.awaits : Phase → Bool
  | .wait | .abort | .parse => true
  | _ => false

/-- What holds of the machine between steps. -/
structure State.Inv (s : State) : Prop where
  /-- The parameters meet the constraints of R7. -/
  cfg : s.cfg.wf = true
  /-- Both buffers keep their canonical form. -/
  txForm : Memory.wf s.tx = true
  rxForm : Memory.wf s.rx = true
  /-- Nothing is written outside a buffer (R51). -/
  txInside : Memory.below s.cfg.txCap s.tx = true
  rxInside : Memory.below s.cfg.rxCap s.rx = true
  /-- `0 <= rxsz <= RX_CAP` (R24), and a pending size is a size of that range (R150). -/
  rxsz : s.rxsz.toNat ≤ s.cfg.rxCap
  pendRx : ∀ k, s.pend.rx = some k → k.toNat ≤ s.cfg.rxCap
  /-- A transmit span lies in `TX` (R142, R51). -/
  txLen : s.txLen ≤ s.cfg.txCap
  /-- The tick, and the sample of it, have `TICK_BITS` bits (R29, R30). -/
  tick : s.tick < 2 ^ s.cfg.tickBits
  t0 : s.fg.t0 < 2 ^ s.cfg.tickBits
  /-- A burst is not empty (R43). -/
  wireOut : ∀ b ∈ s.wireOut, b ≠ []
  wireIn : ∀ b ∈ s.wireIn, b ≠ []
  sent : ∀ b ∈ s.sent, b ≠ []
  /-- Every result is sound (R34, R289). -/
  result : s.fg.result.sound = true
  results : ∀ r ∈ s.results, ∀ c, r.result = some c → c.sound = true
  /-- `Idle` is having no operation in progress (R30). -/
  idle : s.fg.phase = .idle ↔ s.fg.instr = none
  /-- `op` stays None while a synchronous operation runs (R22, R242). -/
  syncAlone : ∀ i, s.fg.instr = some i → isSync i = true → s.fg.phase.underway = true → s.op = .none
  /-- A START never waits (R251). -/
  startNoWait : ∀ i, s.fg.instr = some i → isStart i = true → s.fg.phase.awaits = false

/-! ### The end of a run -/

/-- The host calls an operation: bytes of an operation or of a request are issued.  A reply is the peer's. -/
def Event.isHostCall : Event → Bool
  | .issue .opsel _ | .issue .appOut _ => true
  | .issue .appIn _ | .fg | .irq | .rxe | .txe | .peerTake | .peerSend _ | .tick => false

/-- A test is over (R325): the host has no more operations to call and nothing is in progress. -/
def State.quiescent (s : State) : Bool :=
  !s.script.any Event.isHostCall && decide (s.fg.phase = .idle) && decide (s.op = .none) && decide (s.wireOut = []) &&
    decide (s.wireIn = []) && decide (s.pend = ⟨none, false⟩) && !s.txBusy

end Sys2Proof.Machine
end

