-- ==== Sys2Proof/Certificates/Slice0/Obligations.lean ====
section
/-! DEFINITION. The statements for the provers.  Each is about every state and every operand unless it says otherwise;
a statement about an instruction gives the whole next state, so it says what changes and that nothing else does. -/

open Sys2Proof Sys2Proof.Machine

/-! ### The codec -/

/-- R120: CHECKSUM returns the negated byte sum, computed here in unbounded integers, and changes nothing. -/
def Obligations.ChecksumReturnsNegatedByteSum : Prop :=
  ∀ (b : List Byte) (s : State), s.fg.phase = .idle →
    ∃ c : Byte, c.toNat = (256 - (b.map BitVec.toNat).sum % 256) % 256 ∧
      exec (.checksum b) s = .next { s with results := s.results ++ [⟨none, .checksum c⟩] }

/-- R121: a span and its checksum sum to 0 modulo 256, and no other byte does that. -/
def Obligations.SpanAndChecksumSumToZero : Prop :=
  ∀ (b : List Byte) (c : Byte),
    ((b.map BitVec.toNat).sum + (cks b).toNat) % 256 = 0 ∧
    (((b.map BitVec.toNat).sum + c.toNat) % 256 = 0 → c = cks b)

/-- R122: BUILD_FRAME writes the frame at `TX[0 .. 18 + p)`, leaves every other byte of `TX` and every other part of
the state, and returns the span. -/
def Obligations.BuildFrameWritesTheFrame : Prop :=
  ∀ (s : State) (cmd : Half) (p : List Byte), s.fg.phase = .idle → 18 + p.length ≤ s.cfg.txCap →
    7 + p.length ≤ 65535 →
    ∃ t, exec (.buildFrame cmd p) s = .next t ∧
      t.txBytes 0 (18 + p.length) =
        magic ++ bytes16 (BitVec.ofNat 16 (7 + p.length)) ++ [cks (magic ++ bytes16 (BitVec.ofNat 16 (7 + p.length)))] ++
          bytes32 s.pw ++ bytes16 cmd ++ p ++ [cks (bytes32 s.pw ++ bytes16 cmd ++ p)] ∧
      (∀ a, 18 + p.length ≤ a → t.txByte a = s.txByte a) ∧
      t = { s with tx := t.tx, results := s.results ++ [⟨none, .span ⟨0, 18 + p.length⟩⟩] }

/-- R123: a payload beyond the precondition is refused, by BUILD_FRAME and by every operation that builds; nothing is
chosen for the truncated frame.  The refusal is the spec's decision D39 (assumption 17). -/
def Obligations.BuildFrameRefusesOversizedPayload : Prop :=
  (∀ (s : State) (cmd : Half) (p : List Byte), s.fg.phase = .idle →
    (s.cfg.txCap < 18 + p.length ∨ 65535 < 7 + p.length) →
    exec (.buildFrame cmd p) s = .refused .payloadTooLong) ∧
  (∀ (i : Instr) (s : State), usesLine i = true → s.fg.phase = .send → s.fg.instr = some i →
    (s.cfg.txCap < 18 + s.fg.payload.length ∨ 65535 < 7 + s.fg.payload.length) →
    exec i s = .refused .payloadTooLong)

/-- R124, R125, R126: PARSE_FRAME returns `valid` with the three fields exactly when the six checks pass, and the one
`invalid` otherwise; it changes nothing.  `MIN_APP_LEN` has one of its two values (R7); the span of the corner of length
10 is not said here but in ShortApplicationLengths. -/
def Obligations.ParseFrameMakesTheSixChecks : Prop :=
  ∀ (s : State), s.fg.phase = .idle → s.rxsz.toNat ≤ s.cfg.rxCap → s.cfg.minAppLen = 10 ∨ s.cfg.minAppLen = 11 →
    ∃ v : Verdict, exec .parseFrame s = .next { s with results := s.results ++ [⟨none, .verdict v⟩] } ∧
      let n := s.rxsz.toNat
      let L := (s.rxByte 8).toNat * 256 + (s.rxByte 9).toNat
      let passes := 11 ≤ n ∧ s.rxBytes 0 8 = magic ∧ cks (s.rxBytes 0 10) = s.rxByte 10 ∧ 11 + L ≤ n ∧ L ≠ 0 ∧
        cks (s.rxBytes 11 (L - 1)) = s.rxByte (11 + L - 1) ∧ s.cfg.minAppLen ≤ L
      (passes → ∃ sp, v = .valid (be16 (s.rxByte 15) (s.rxByte 16))
          (be32 (s.rxByte 17) (s.rxByte 18) (s.rxByte 19) (s.rxByte 20)) sp ∧ (11 ≤ L → sp = ⟨21, L - 11⟩)) ∧
        (¬ passes → v = .invalid)

/-- R127: application lengths up to 10.  A frame of length 0 to 9 is invalid; one of length 10 that passes the other
checks is valid with an empty payload when `MIN_APP_LEN` is 10 and invalid when it is 11. -/
def Obligations.ShortApplicationLengths : Prop :=
  ∀ (raw : List Byte) (m : Nat), m = 10 ∨ m = 11 →
    (claimedLen raw ≤ 9 → parseFrame m raw = .invalid) ∧
    (claimedLen raw = 10 → m = 11 → parseFrame m raw = .invalid) ∧
    (claimedLen raw = 10 → m = 10 → 21 ≤ raw.length → slice raw 0 8 = magic → cks (slice raw 0 10) = byteAt raw 10 →
      cks (slice raw 11 9) = byteAt raw 20 →
      parseFrame m raw = .valid (be16 (byteAt raw 15) (byteAt raw 16))
        (be32 (byteAt raw 17) (byteAt raw 18) (byteAt raw 19) (byteAt raw 20)) ⟨21, 0⟩)

/-- R129: the round trip.  An inbound frame is parsed into its fields, and the bytes of the span are its payload; an
outbound frame given to the parser is read in the inbound layout. -/
def Obligations.ParseRecoversFrames : Prop :=
  ∀ (m : Nat), m = 10 ∨ m = 11 →
    (∀ (pw err : Word) (ack : Half) (p : List Byte), 11 + p.length ≤ 65535 →
      parseFrame m (inFrame pw ack err p) = .valid ack err ⟨21, p.length⟩ ∧
        slice (inFrame pw ack err p) 21 p.length = p) ∧
    (∀ (pw : Word) (cmd : Half) (p : List Byte), 7 + p.length ≤ 65535 →
      (4 ≤ p.length → parseFrame m (outFrame pw cmd p) =
        .valid cmd (be32 (byteAt p 0) (byteAt p 1) (byteAt p 2) (byteAt p 3)) ⟨21, p.length - 4⟩) ∧
      (p.length = 3 → m = 10 → parseFrame m (outFrame pw cmd p) =
        .valid cmd (be32 (byteAt p 0) (byteAt p 1) (byteAt p 2) (cks (bytes32 pw ++ bytes16 cmd ++ p))) ⟨21, 0⟩) ∧
      (p.length = 3 → m = 11 → parseFrame m (outFrame pw cmd p) = .invalid) ∧
      (p.length ≤ 2 → parseFrame m (outFrame pw cmd p) = .invalid))

/-- R130: one flipped bit of a valid frame is always found, and bytes after the frame are never looked at. -/
def Obligations.SingleBitFlipIsFound : Prop :=
  ∀ (m : Nat) (raw : List Byte), m = 10 ∨ m = 11 → parseFrame m raw ≠ .invalid →
    (∀ (k j : Nat), k < 11 + claimedLen raw → j < 8 →
      parseFrame m (raw.set k (byteAt raw k ^^^ BitVec.ofNat 8 (2 ^ j))) = .invalid) ∧
    (∀ tail, parseFrame m (raw ++ tail) = parseFrame m raw) ∧
    (∀ (k : Nat) (v : Byte), 11 + claimedLen raw ≤ k → parseFrame m (raw.set k v) = parseFrame m raw)

/-! ### The transport -/

/-- R141: START_RECEIVE for either answer of the transport, armed or not: the answer is a free draw in every call by the
spec's decision D14, given by the list of answers or free when that is used up (assumption 3). -/
def Obligations.StartReceiveArmsOnTrue : Prop :=
  ∀ s : State, s.fg.phase = .idle →
    (∀ a r, s.answers = a :: r → exec .startReceive s = .next
      { s with answers := r, rxArmed := a || s.rxArmed, results := s.results ++ [⟨none, .answer a⟩] }) ∧
    (s.answers = [] → exec .startReceive s = .next
      { s with draws := s.draws + 1, rxArmed := Config.freeBool s.draws || s.rxArmed,
               results := s.results ++ [⟨none, .answer (Config.freeBool s.draws)⟩] })

/-- R142: TRANSMIT for either answer; the bytes of `TX` and the line do not change, for they are read later.  A span
that does not lie in `TX` does not exist (R51) and faults. -/
def Obligations.TransmitHandsOverTheSpan : Prop :=
  ∀ (s : State) (n : Nat), s.fg.phase = .idle →
    (s.cfg.txCap < n → exec (.transmit n) s = .fault .outsideBuffer) ∧
    (n ≤ s.cfg.txCap → ∀ r, s.answers = true :: r → exec (.transmit n) s = .next
      { s with answers := r, txBusy := true, txLen := n, results := s.results ++ [⟨none, .answer true⟩] }) ∧
    (n ≤ s.cfg.txCap → ∀ r, s.answers = false :: r → exec (.transmit n) s = .next
      { s with answers := r, results := s.results ++ [⟨none, .answer false⟩] }) ∧
    (n ≤ s.cfg.txCap → s.answers = [] → exec (.transmit n) s = .next
      { s with draws := s.draws + 1, txBusy := Config.freeBool s.draws || s.txBusy,
               txLen := if Config.freeBool s.draws then n else s.txLen,
               results := s.results ++ [⟨none, .answer (Config.freeBool s.draws)⟩] })

/-- R143: ABORT_RECEIVE disarms and leaves any byte at every address of `RX`; no notification is posted and one already
posted stays. -/
def Obligations.AbortDisarmsAndFreesRx : Prop :=
  ∀ s : State, s.fg.phase = .idle →
    ∃ t, exec .abortReceive s = .next t ∧
      t = { s with rxArmed := false, rx := t.rx, rxEpoch := t.rxEpoch, results := s.results ++ [⟨none, .nothing⟩] } ∧
      t.rxEpoch ≠ s.rxEpoch ∧ ∀ a, t.rxByte a = Config.freeRxByte t.rxEpoch a

/-- R145: DELAY_MS suspends `FG`.  The call sets the delay; each tick takes one millisecond off it; while any is left a
foreground step does nothing; with none left the operation returns. -/
def Obligations.DelaySuspendsTheForeground : Prop :=
  ∀ (s : State) (d : Nat),
    (s.fg.phase = .idle → exec (.delayMs d) s =
      .next { s with fg := { s.fg with phase := .done, instr := some (.delayMs d), sleep := d } }) ∧
    (∀ r, s.script = .tick :: r → ∃ t, step s = .next t ∧ t.fg.sleep = s.fg.sleep - 1) ∧
    (∀ r, s.script = .fg :: r → s.hung = false → s.pend = ⟨none, false⟩ → s.fg.phase ≠ .idle → 0 < s.fg.sleep →
      step s = .next { s with script := r }) ∧
    (s.fg.phase = .done → s.fg.instr = some (.delayMs d) → s.fg.sleep = 0 → exec (.delayMs d) s =
      .next { s with fg := { s.fg with phase := .idle, instr := none }, results := s.results ++ [⟨none, .nothing⟩] })

/-- R153: ON_TRANSMIT_COMPLETE empties `pend.tx` and changes nothing in the block; `IRQ` runs it when nothing else is
pending. -/
def Obligations.TransmitCompleteChangesNothing : Prop :=
  ∀ s : State,
    exec .onTransmitComplete s = .next { s with pend := { s.pend with tx := false } } ∧
    (∀ r, s.script = .irq :: r → s.hung = false → s.pend = ⟨none, true⟩ →
      step s = .next { s with script := r, pend := ⟨none, false⟩ })

/-- R150: the receive engine, armed and not armed, for any burst. -/
def Obligations.ReceiveEngineDeliversOneBurst : Prop :=
  ∀ (s : State) (r : List Event) (b : Burst) (rest : List Burst),
    s.script = .rxe :: r → s.wireIn = b :: rest → s.cfg.rxCap ≤ 65535 →
    ∃ t, step s = .next t ∧
      (s.rxArmed = false → t = { s with script := r, wireIn := rest }) ∧
      (s.rxArmed = true →
        t = { s with script := r, wireIn := rest, rx := t.rx, rxArmed := false, pend := t.pend } ∧
        t.pend.tx = s.pend.tx ∧ (∃ k : Half, t.pend.rx = some k ∧ k.toNat = min b.length s.cfg.rxCap) ∧
        t.rxBytes 0 (min b.length s.cfg.rxCap) = b.take s.cfg.rxCap ∧
        ∀ a, min b.length s.cfg.rxCap ≤ a → t.rxByte a = s.rxByte a)

/-- R152, R66: the transmit engine sends what `TX` holds when it steps, as one burst, and posts transmit-complete; the
burst is observed (R325).  A span of no bytes, which no frame is, completes with no burst: the model's choice
(assumption 18).  With `txBusy` 0 the engine has no step, and its event is used up: the model's choice (assumption 23). -/
def Obligations.TransmitEngineSendsTheSpan : Prop :=
  ∀ (s : State) (r : List Event), s.script = .txe :: r →
    (s.txBusy = true → 0 < s.txLen → step s = .next
      { s with script := r, wireOut := s.wireOut ++ [s.txBytes 0 s.txLen], txBusy := false, pend := ⟨s.pend.rx, true⟩,
               sent := s.sent ++ [s.txBytes 0 s.txLen] }) ∧
    (s.txBusy = true → s.txLen = 0 → step s = .next
      { s with script := r, txBusy := false, pend := ⟨s.pend.rx, true⟩ }) ∧
    (s.txBusy = false → step s = .next { s with script := r })

/-- R144, R161: the tick counts modulo `2^TICK_BITS`, and nothing but the delay of DELAY_MS goes with it; GET_TICK
returns it and changes nothing. -/
def Obligations.TickIsCountedAndRead : Prop :=
  ∀ s : State,
    (∀ r, s.script = .tick :: r → s.tick < 2 ^ s.cfg.tickBits → step s = .next
      { s with script := r, tick := if s.tick + 1 = 2 ^ s.cfg.tickBits then 0 else s.tick + 1,
               fg := { s.fg with sleep := s.fg.sleep - 1 } }) ∧
    (s.fg.phase = .idle → exec .getTick s = .next { s with results := s.results ++ [⟨none, .tick s.tick⟩] })

/-- R160, R86: the peer takes a frame, and sends any burst; RESPONSE is its sending of the frame of R86
(assumption 11); a payload that does not fit the length field makes no frame. -/
def Obligations.PeerTakesAndSends : Prop :=
  ∀ s : State,
    (∀ r b rest, s.script = .peerTake :: r → s.wireOut = b :: rest →
      step s = .next { s with script := r, wireOut := rest }) ∧
    (∀ r b, s.script = .peerSend b :: r → b ≠ [] → step s = .next { s with script := r, wireIn := s.wireIn ++ [b] }) ∧
    (∀ ack pw err p, 11 + p.length ≤ 65535 → exec (.response ack pw err p) s = .next { s with wireIn := s.wireIn ++
      [magic ++ bytes16 (BitVec.ofNat 16 (11 + p.length)) ++ [cks (magic ++ bytes16 (BitVec.ofNat 16 (11 + p.length)))] ++
        bytes32 pw ++ bytes16 ack ++ bytes32 err ++ p ++ [cks (bytes32 pw ++ bytes16 ack ++ bytes32 err ++ p)]] }) ∧
    (∀ ack pw err p, 65535 < 11 + p.length → exec (.response ack pw err p) s = .refused .replyTooLong)

/-! ### The dispatcher and the wrappers -/

/-- R101, R182: the call of every wrapper and of SEND_AND_AWAIT goes from `Idle` to `Check` with the code and payload of
the table, and touches nothing but the sequencer. -/
def Obligations.CallLatchesTheRequest : Prop :=
  ∀ (i : Instr) (s : State) (cmd : Half) (p : List Byte), exchangeRequest s.cfg i = some (cmd, p) →
    s.fg.phase = .idle →
    ∃ t, exec i s = .next t ∧ t = { s with fg := t.fg } ∧ t.fg.phase = .check ∧ t.fg.instr = some i ∧
      t.fg.cmd = cmd ∧ t.fg.payload = p

/-- R171, R231, R261, R287: every operation that uses the line is answered `Busy` while a session is active, and nothing
but the sequencer changes.  R255, R260 (d): called from inside a callback it is answered `Busy` too: in the match
callback, and in the progress callback of an enrollment that ends with a module error and has no completion callback,
the continuation does what it does without the call, and one `Busy` more is returned; `d` counts the free values drawn
for the out-value.  The request frames are instructions by the model's choice (assumption 10), and what a callback calls
is the next entry of `bodies` (assumption 16). -/
def Obligations.BusyHasNoSideEffect : Prop :=
  ∀ (i : Instr) (s : State), usesLine i = true →
    (s.fg.phase = .check → s.fg.instr = some i → s.op ≠ .none →
      exec i s = .next { s with fg := { s.fg with phase := .done, result := ⟨.busy, 0⟩ } }) ∧
    (∀ (k ack : Half) (err : Word) (sp : Span) (h : Handle) (q : List CallbackBody),
      s.pend.rx = some k → k.toNat ≤ s.cfg.rxCap → s.bodies = ⟨[i], true⟩ :: q →
      parseFrame s.cfg.minAppLen (s.rxBytes 0 k.toNat) = .valid ack err sp →
      (s.op = .asyncMatch → s.cbMatch = some h → sp.off + 5 ≤ s.cfg.rxCap →
        ∃ (m : MatchResult) (o : OutValue) (d : Nat), exec (.onUartReceive k) s = .next
          { s with rxsz := k, op := .none, pend := ⟨none, s.pend.tx⟩, bodies := q, draws := d,
                   invoked := s.invoked ++ [⟨.onMatch, h, .matched m⟩],
                   results := s.results ++ [⟨some ⟨.busy, 0⟩, o⟩] }) ∧
      (s.op = .asyncEnroll → s.cbProgress = some h → s.cbComplete = none → err ≠ 0 →
        ∃ (o : OutValue) (d : Nat), exec (.onUartReceive k) s = .next
          { s with rxsz := k, op := .none, pend := ⟨none, s.pend.tx⟩, bodies := q, draws := d,
                   invoked := s.invoked ++ [⟨.onProgress, h, .enroll ⟨true, 0, 0, 0, err⟩⟩],
                   results := s.results ++ [⟨some ⟨.busy, 0⟩, o⟩] }))

/-- R172: step `Arm` of every exchange, for either answer. -/
def Obligations.ArmClearsReadyAndArms : Prop :=
  ∀ (i : Instr) (s : State) (r : List Bool), (exchangeRequest s.cfg i).isSome = true → s.fg.phase = .arm →
    s.fg.instr = some i →
    (s.answers = true :: r → exec i s = .next
      { s with rdy := false, answers := r, rxArmed := true, fg := { s.fg with phase := .send } }) ∧
    (s.answers = false :: r → exec i s = .next
      { s with rdy := false, answers := r, fg := { s.fg with phase := .done, result := ⟨.receiveError, 0⟩ } })

/-- R173: step `Send` of every exchange builds the latched request and hands it over; on a failure the receiver stays
as it is (the spec's decision D13).  The window opens at the tick of this step by the spec's decision D8 (assumption 21).
The request frames are exchanges as instructions by the model's choice (assumption 10). -/
def Obligations.SendBuildsAndTransmits : Prop :=
  ∀ (i : Instr) (s : State) (a : Bool) (r : List Bool), (exchangeRequest s.cfg i).isSome = true →
    s.fg.phase = .send → s.fg.instr = some i → 18 + s.fg.payload.length ≤ s.cfg.txCap →
    7 + s.fg.payload.length ≤ 65535 → s.answers = a :: r →
    ∃ t, exec i s = .next t ∧ t.txBytes 0 (18 + s.fg.payload.length) = outFrame s.pw s.fg.cmd s.fg.payload ∧
      (∀ b, 18 + s.fg.payload.length ≤ b → t.txByte b = s.txByte b) ∧
      (a = true → t =
        { s with tx := t.tx, answers := r, txBusy := true, txLen := 18 + s.fg.payload.length,
                 fg := { s.fg with t0 := s.tick, timeout := exchangeWindow i, phase := .wait } }) ∧
      (a = false → t =
        { s with tx := t.tx, answers := r, fg := { s.fg with phase := .done, result := ⟨.transmitError, 0⟩ } })

/-- R174, R238, R351: one round of the wait loop, of an exchange or of the enrollment: the flag is looked at first; the
window has run out only when the elapsed time is strictly more than it; otherwise DELAY_MS(POLL_MS) and again.  The clock and the order are
the spec's decisions D8 and D9, and that an enrollment waits so at every step is its decision D42 (assumption 21). -/
def Obligations.WaitLooksAtFlagThenClock : Prop :=
  ∀ (i : Instr) (s : State), isSync i = true → s.fg.phase = .wait → s.fg.instr = some i →
    s.fg.t0 < 2 ^ s.cfg.tickBits → s.tick < 2 ^ s.cfg.tickBits →
    ∀ e, e < 2 ^ s.cfg.tickBits → (s.fg.t0 + e) % 2 ^ s.cfg.tickBits = s.tick →
    (s.rdy = true → exec i s = .next { s with fg := { s.fg with phase := .parse } }) ∧
    (s.rdy = false → s.fg.timeout < e → exec i s = .next { s with fg := { s.fg with phase := .abort } }) ∧
    (s.rdy = false → e ≤ s.fg.timeout → exec i s = .next { s with fg := { s.fg with sleep := s.cfg.pollMs } })

/-- R175: step `Abort` of an exchange or of the enrollment disarms, frees `RX`, and the operation is done with
`Timeout`; a flag left by a late burst is not touched. -/
def Obligations.AbortStepReturnsTimeout : Prop :=
  ∀ (i : Instr) (s : State), isSync i = true → s.fg.phase = .abort → s.fg.instr = some i →
    ∃ t, exec i s = .next t ∧
      t = { s with rxArmed := false, rx := t.rx, rxEpoch := t.rxEpoch,
                   fg := { s.fg with phase := .done, result := ⟨.timeout, 0⟩ } } ∧
      t.rxEpoch ≠ s.rxEpoch ∧ ∀ a, t.rxByte a = Config.freeRxByte t.rxEpoch a

/-- R176, R177: step `Parse` of an exchange: `InvalidResponse`, or `ModuleError` with the code, or `OK`, the last two
with the span. -/
def Obligations.ParseStepGivesTheStatus : Prop :=
  ∀ (i : Instr) (s : State), (exchangeRequest s.cfg i).isSome = true → s.fg.phase = .parse → s.fg.instr = some i →
    s.rxsz.toNat ≤ s.cfg.rxCap →
    (parseFrame s.cfg.minAppLen (s.rxBytes 0 s.rxsz.toNat) = .invalid → exec i s = .next
      { s with fg := { s.fg with phase := .done, result := ⟨.invalidResponse, 0⟩ } }) ∧
    (∀ ack err sp, parseFrame s.cfg.minAppLen (s.rxBytes 0 s.rxsz.toNat) = .valid ack err sp → exec i s = .next
      { s with fg := { s.fg with phase := .done, span := some sp,
                                 result := if err = 0 then ⟨.ok, 0⟩ else ⟨.moduleError, err⟩ } })

/-- The first half of every synchronous request with nothing between its steps: from `Idle` with no session the
receiver is armed, the frame of the table is in `TX` and with the transport, and the call waits (R182, R184).  That `Arm`
clears `rdy` (R172) is the spec's decision D6, and that the window opens at the tick of `Send` (R173) its decision D8; two
codes and payloads of the table are its decisions D18 and D19 (assumption 21).  The request frames are exchanges as instructions by the model's choice (assumption 10). -/
def Obligations.CallReachesWaitWithItsFrame : Prop :=
  ∀ (i : Instr) (s : State) (cmd : Half) (p : List Byte) (r : List Bool), exchangeRequest s.cfg i = some (cmd, p) →
    s.fg.phase = .idle → s.op = .none → s.answers = true :: true :: r → 18 + p.length ≤ s.cfg.txCap →
    7 + p.length ≤ 65535 →
    ∃ t, execTimes i 4 s = .next t ∧ t.txBytes 0 (18 + p.length) = outFrame s.pw cmd p ∧
      (∀ a, 18 + p.length ≤ a → t.txByte a = s.txByte a) ∧
      t = { s with tx := t.tx, answers := r, rdy := false, rxArmed := true, txBusy := true,
                   txLen := 18 + p.length, fg := t.fg } ∧
      t.fg.phase = .wait ∧ t.fg.instr = some i ∧ t.fg.t0 = s.tick ∧ t.fg.timeout = exchangeWindow i

/-- The second half of a request with no out-value: a valid reply is in `RX` and flagged, and the call returns `OK`, or
`ModuleError` with the code (R176, R190, and the wrappers with no decoder). -/
def Obligations.PlainReplyReturnsTheStatus : Prop :=
  ∀ (i : Instr) (s : State) (pw err : Word) (ack : Half) (p : List Byte), isPlain i = true →
    s.fg.phase = .wait → s.fg.instr = some i → s.rdy = true → s.cfg.minAppLen ≤ 11 → 22 + p.length ≤ s.cfg.rxCap →
    s.rxsz.toNat = 22 + p.length → s.rxBytes 0 (22 + p.length) = inFrame pw ack err p →
    execTimes i 3 s = .next
      (let res : CommandResult := if err = 0 then ⟨.ok, 0⟩ else ⟨.moduleError, err⟩
       { s with fg := { s.fg with phase := .idle, instr := none, span := some ⟨21, p.length⟩, result := res },
                results := s.results ++ [⟨some res, .nothing⟩] })

/-- SEND_AND_AWAIT called by the host returns the status and the span (R176, R177). -/
def Obligations.SendAndAwaitReturnsTheSpan : Prop :=
  ∀ (cmd : Half) (ms : Nat) (q : List Byte) (s : State) (pw err : Word) (ack : Half) (p : List Byte),
    s.fg.phase = .wait → s.fg.instr = some (.sendAndAwait cmd ms q) → s.rdy = true → s.cfg.minAppLen ≤ 11 →
    22 + p.length ≤ s.cfg.rxCap → s.rxsz.toNat = 22 + p.length →
    s.rxBytes 0 (22 + p.length) = inFrame pw ack err p →
    execTimes (.sendAndAwait cmd ms q) 3 s = .next
      (let res : CommandResult := if err = 0 then ⟨.ok, 0⟩ else ⟨.moduleError, err⟩
       { s with fg := { s.fg with phase := .idle, instr := none, span := some ⟨21, p.length⟩, result := res },
                results := s.results ++ [⟨some res, .payload (some ⟨21, p.length⟩)⟩] })

/-- R192, R196 (offsets by the spec's decision D22; the two request frames as instructions by the model's choice,
assumption 10): IS_FINGER_PRESSED and its frame say pressed exactly when payload byte 0 is 1; GET_FINGERPRINT_COUNT and
its frame read a big-endian count at payload offset 0. -/
def Obligations.FingerStatusAndCountAreDecoded : Prop :=
  ∀ (i : Instr) (s : State) (sp : Span), s.fg.phase = .done → s.fg.instr = some i → s.fg.result.status = .ok →
    s.fg.span = some sp →
    (i = .isFingerPressed ∨ i = .cmdFingerStatus → 1 ≤ sp.len → sp.off + 1 ≤ s.cfg.rxCap →
      ∃ b : Bool, (b = true ↔ s.rxByte sp.off = 0x01) ∧ exec i s = .next
        { s with fg := { s.fg with phase := .idle, instr := none },
                 results := s.results ++ [⟨some s.fg.result, .pressed b⟩] }) ∧
    (i = .getFingerprintCount ∨ i = .cmdCount → 2 ≤ sp.len → sp.off + 2 ≤ s.cfg.rxCap → exec i s = .next
      { s with fg := { s.fg with phase := .idle, instr := none },
               results := s.results ++
                 [⟨some s.fg.result, .count (be16 (s.rxByte sp.off) (s.rxByte (sp.off + 1)))⟩] })

/-- R193 (the flag byte by the spec's decision D24; the request frame as an instruction by the model's choice,
assumption 10): MATCH and its frame read the flag at payload offset 1, the score at 2 and the identifier at 4; a flag byte
other than 0 and 1 gives a Boolean that nothing constrains. -/
def Obligations.MatchIsDecodedFromOffsetOne : Prop :=
  ∀ (i : Instr) (s : State) (sp : Span), i = .matchFinger ∨ i = .cmdMatchSync → s.fg.phase = .done →
    s.fg.instr = some i → s.fg.result.status = .ok → s.fg.span = some sp → 6 ≤ sp.len → sp.off + 6 ≤ s.cfg.rxCap →
    ∃ b : Bool, exec i s = .next
      { s with draws := if s.rxByte (sp.off + 1) = 0 ∨ s.rxByte (sp.off + 1) = 1 then s.draws else s.draws + 1,
               fg := { s.fg with phase := .idle, instr := none },
               results := s.results ++ [⟨some s.fg.result, .matched
                 ⟨b, be16 (s.rxByte (sp.off + 4)) (s.rxByte (sp.off + 5)),
                   be16 (s.rxByte (sp.off + 2)) (s.rxByte (sp.off + 3))⟩⟩] } ∧
      (s.rxByte (sp.off + 1) = 0 → b = false) ∧ (s.rxByte (sp.off + 1) = 1 → b = true) ∧
      (s.rxByte (sp.off + 1) ≠ 0 → s.rxByte (sp.off + 1) ≠ 1 → b = Config.freeBool s.draws)

/-- R199 (the masks by the spec's decision D23; the request frame as an instruction by the model's choice,
assumption 10): GET_SYSTEM_POLICY and its frame read the three low bits of payload byte 3. -/
def Obligations.PolicyIsDecoded : Prop :=
  ∀ (i : Instr) (s : State) (sp : Span), i = .getSystemPolicy ∨ i = .cmdGetPolicy → s.fg.phase = .done →
    s.fg.instr = some i → s.fg.result.status = .ok → s.fg.span = some sp → 4 ≤ sp.len → sp.off + 4 ≤ s.cfg.rxCap →
    exec i s = .next
      { s with fg := { s.fg with phase := .idle, instr := none },
               results := s.results ++ [⟨some s.fg.result, .policy ⟨(s.rxByte (sp.off + 3)).getLsbD 0,
                 (s.rxByte (sp.off + 3)).getLsbD 1, (s.rxByte (sp.off + 3)).getLsbD 2⟩⟩] }

/-- R190 (d), R234, R256: a valid reply with a payload shorter than its decoder reads is refused, by a wrapper, by the
enrollment and by the continuation of an asynchronous enrollment.  The refusal is the spec's decision D25
(assumption 17). -/
def Obligations.ShortReplyIsRefused : Prop :=
  (∀ (i : Instr) (s : State) (sp : Span) (need : Nat), decoderNeed i = some need → s.fg.phase = .done →
    s.fg.instr = some i → s.fg.result.status = .ok → s.fg.span = some sp → sp.len < need →
    exec i s = .refused .payloadTooShort) ∧
  (∀ (i : Instr) (s : State) (ack : Half) (sp : Span), (enrollOperands i).isSome = true → s.fg.phase = .parse →
    s.fg.instr = some i → s.rxsz.toNat ≤ s.cfg.rxCap →
    parseFrame s.cfg.minAppLen (s.rxBytes 0 s.rxsz.toNat) = .valid ack 0 sp → sp.len < 4 →
    exec i s = .refused .payloadTooShort) ∧
  (∀ (s : State) (k ack : Half) (sp : Span), s.op = .asyncEnroll → s.pend.rx = some k → k.toNat ≤ s.cfg.rxCap →
    parseFrame s.cfg.minAppLen (s.rxBytes 0 k.toNat) = .valid ack 0 sp → sp.len < 4 →
    exec (.onUartReceive k) s = .refused .payloadTooShort)

/-- R190 (a), (c): with a status other than `OK` every wrapper returns that status unchanged and `pw` is kept; only the
draw counter, the sequencer and the returned list change. -/
def Obligations.FailedWrapperReturnsItsStatus : Prop :=
  ∀ (i : Instr) (s : State), (exchangeRequest s.cfg i).isSome = true → s.fg.phase = .done → s.fg.instr = some i →
    s.fg.result.status ≠ .ok →
    ∃ (n : Nat) (o : OutValue), exec i s = .next
      { s with draws := n, fg := { s.fg with phase := .idle, instr := none },
               results := s.results ++ [⟨some s.fg.result, o⟩] }

/-- R197: SET_PASSWORD and its two frames return, and `pw` becomes the value on `OK` and only then. -/
def Obligations.PasswordChangesOnlyOnOk : Prop :=
  ∀ (i : Instr) (v : Word) (s : State), newPassword i = some v → s.fg.phase = .done → s.fg.instr = some i →
    exec i s = .next
      { s with pw := if s.fg.result.status = .ok then v else s.pw, fg := { s.fg with phase := .idle, instr := none },
               results := s.results ++ [⟨some s.fg.result, .nothing⟩] }

/-- R202 to R204: each setter writes its own register, in one step, whatever `op` is. -/
def Obligations.SettersWriteTheirRegister : Prop :=
  ∀ (s : State) (cb : Callback), s.fg.phase = .idle →
    exec (.setMatchCallback cb) s = .next { s with cbMatch := cb, results := s.results ++ [⟨none, .nothing⟩] } ∧
    exec (.setEnrollProgressCallback cb) s =
      .next { s with cbProgress := cb, results := s.results ++ [⟨none, .nothing⟩] } ∧
    exec (.setEnrollCompleteCallback cb) s =
      .next { s with cbComplete := cb, results := s.results ++ [⟨none, .nothing⟩] }

/-! ### The synchronous enrollment -/

/-- R230, R231, R232: the enrollment goes `Check` to `Send` and sends its one request with the receiver not armed. -/
def Obligations.EnrollSendsBeforeItArms : Prop :=
  ∀ (i : Instr) (s : State) (f : Half) (n : Byte) (cb : Callback) (r : List Bool), enrollOperands i = some (f, n, cb) →
    s.fg.phase = .idle → s.op = .none → s.answers = true :: r → 22 ≤ s.cfg.txCap →
    ∃ t, execTimes i 3 s = .next t ∧ t.txBytes 0 22 = outFrame s.pw 0x0118 ([0x01, n] ++ bytes16 f) ∧
      (∀ a, 22 ≤ a → t.txByte a = s.txByte a) ∧
      t = { s with tx := t.tx, answers := r, txBusy := true, txLen := 22, fg := t.fg } ∧
      t.fg.phase = .arm ∧ t.fg.instr = some i ∧ t.fg.enroll = ⟨false, 0, 0, 0, 0⟩

/-- R233: every arm of the enrollment clears `rdy` (the spec's decision D6) and restarts the 15000 ms window at the tick of
the arm (D8), the first arm too (D42); a failed arm is terminal, with `ReceiveError` (D35) (assumption 21). -/
def Obligations.EnrollArmRestartsTheWindow : Prop :=
  ∀ (i : Instr) (s : State) (r : List Bool), (enrollOperands i).isSome = true → s.fg.phase = .arm →
    s.fg.instr = some i →
    (s.answers = true :: r → exec i s = .next
      { s with rdy := false, answers := r, rxArmed := true,
               fg := { s.fg with t0 := s.tick, timeout := 15000, phase := .wait } }) ∧
    (s.answers = false :: r → exec i s = .next
      { s with rdy := false, answers := r, fg := { s.fg with phase := .done, result := ⟨.receiveError, 0⟩ } })

/-- R234, R235, R240: a step without module error is decoded and kept, the callback operand is invoked with it, once,
and the loop goes on unless the step is 0xFF. -/
def Obligations.EnrollStepIsDecodedAndReported : Prop :=
  ∀ (i : Instr) (s : State) (f : Half) (n : Byte) (cb : Callback) (ack : Half) (sp : Span),
    enrollOperands i = some (f, n, cb) → s.fg.phase = .parse → s.fg.instr = some i → s.rxsz.toNat ≤ s.cfg.rxCap →
    parseFrame s.cfg.minAppLen (s.rxBytes 0 s.rxsz.toNat) = .valid ack 0 sp → 4 ≤ sp.len →
    sp.off + 4 ≤ s.cfg.rxCap →
    let st : EnrollStatus := ⟨decide (s.rxByte sp.off = 0xFF), s.rxByte sp.off, s.rxByte (sp.off + 3),
      be16 (s.rxByte (sp.off + 1)) (s.rxByte (sp.off + 2)), 0⟩
    exec i s = .next
      { s with
        invoked := (match cb with | none => s.invoked | some h => s.invoked ++ [⟨.operand, h, .enroll st⟩]),
        fg := (if s.rxByte sp.off = 0xFF then { s.fg with phase := .done, result := ⟨.ok, 0⟩, enroll := st }
        else { s.fg with phase := .arm, enroll := st }) }

/-- R236, R239, R241: an invalid frame and a module error end the enrollment with no callback; the error is in the status
with `isComplete` set, over the fields of the last step; the enrollment returns its result with the status as last
written. -/
def Obligations.EnrollEndsWithItsStatus : Prop :=
  ∀ (i : Instr) (s : State), (enrollOperands i).isSome = true → s.fg.instr = some i →
    (s.fg.phase = .parse → s.rxsz.toNat ≤ s.cfg.rxCap →
      parseFrame s.cfg.minAppLen (s.rxBytes 0 s.rxsz.toNat) = .invalid → exec i s = .next
        { s with fg := { s.fg with phase := .done, result := ⟨.invalidResponse, 0⟩ } }) ∧
    (s.fg.phase = .parse → s.rxsz.toNat ≤ s.cfg.rxCap → ∀ ack err sp,
      parseFrame s.cfg.minAppLen (s.rxBytes 0 s.rxsz.toNat) = .valid ack err sp → err ≠ 0 → exec i s = .next
        { s with fg := { s.fg with
            phase := .done, result := ⟨.moduleError, err⟩,
            enroll := ⟨true, s.fg.enroll.step, s.fg.enroll.progress, s.fg.enroll.fingerId, err⟩ } }) ∧
    (s.fg.phase = .done → exec i s = .next
      { s with fg := { s.fg with phase := .idle, instr := none },
               results := s.results ++ [⟨some s.fg.result, .enrolled s.fg.enroll⟩] })

/-! ### The asynchronous session -/

/-- R251, R252: a START with both answers true opens the session, arms, builds and hands over its request, and returns
`AsyncInProgress`; `rdy` is not touched. -/
def Obligations.StartOpensTheSession : Prop :=
  ∀ (i : Instr) (s : State) (x : Session) (cmd : Half) (p : List Byte) (r : List Bool),
    startRequest i = some (x, cmd, p) → s.fg.phase = .idle → s.op = .none → s.answers = true :: true :: r →
    22 ≤ s.cfg.txCap →
    ∃ t, execTimes i 5 s = .next t ∧ t.txBytes 0 (18 + p.length) = outFrame s.pw cmd p ∧
      (∀ a, 18 + p.length ≤ a → t.txByte a = s.txByte a) ∧
      t = { s with op := x, tx := t.tx, answers := r, rxArmed := true, txBusy := true, txLen := 18 + p.length,
                   fg := t.fg, results := s.results ++ [⟨some ⟨.asyncInProgress, 0⟩, .nothing⟩] } ∧
      t.fg.phase = .idle ∧ t.fg.instr = none

/-- R251: a failed arm or transmit rolls `op` back to None.  After a failed transmit the frame is in `TX`, the rest of
`TX` is as before and the receiver stays armed (the spec's decision D13).  CMD_MATCH_ASYNC is an instruction by the
model's choice (assumption 10). -/
def Obligations.StartRollsBack : Prop :=
  ∀ (i : Instr) (s : State) (r : List Bool), isStart i = true → s.fg.instr = some i →
    s.answers = false :: r →
    (s.fg.phase = .arm → exec i s = .next
      { s with op := .none, answers := r, fg := { s.fg with phase := .done, result := ⟨.receiveError, 0⟩ } }) ∧
    (s.fg.phase = .send → 18 + s.fg.payload.length ≤ s.cfg.txCap → 7 + s.fg.payload.length ≤ 65535 →
      ∃ t, exec i s = .next t ∧
        t.txBytes 0 (18 + s.fg.payload.length) = outFrame s.pw s.fg.cmd s.fg.payload ∧
        (∀ a, 18 + s.fg.payload.length ≤ a → t.txByte a = s.txByte a) ∧
        t = { s with op := .none, answers := r, tx := t.tx,
                     fg := { s.fg with phase := .done, result := ⟨.transmitError, 0⟩ } })

/-- R178: the notification with no session records the size and sets `rdy`, and does nothing else: the spec's decision
D7. -/
def Obligations.NotificationSetsReady : Prop :=
  ∀ (s : State) (k : Half), s.op = .none → s.pend.rx = some k → k.toNat ≤ s.cfg.rxCap →
    exec (.onUartReceive k) s = .next { s with rxsz := k, rdy := true, pend := ⟨none, s.pend.tx⟩ }

/-- R254: an invalid frame during a session ends it, with no callback and nothing else. -/
def Obligations.InvalidFrameEndsTheSession : Prop :=
  ∀ (s : State) (k : Half), s.op ≠ .none → s.pend.rx = some k → k.toNat ≤ s.cfg.rxCap →
    parseFrame s.cfg.minAppLen (s.rxBytes 0 k.toNat) = .invalid →
    exec (.onUartReceive k) s = .next { s with rxsz := k, op := .none, pend := ⟨none, s.pend.tx⟩ }

/-- R255: a valid frame in AsyncMatch invokes the match callback once and then ends the session.  With no error, five
payload bytes and a flag of 0 or 1 the argument is decoded from offset 0; with an error or a shorter payload it is a
result that nothing constrains.  The callback calls nothing and returns. -/
def Obligations.MatchReplyInvokesTheCallbackOnce : Prop :=
  ∀ (s : State) (k : Half) (ack : Half) (err : Word) (sp : Span) (h : Handle) (q : List CallbackBody),
    s.op = .asyncMatch → s.pend.rx = some k → k.toNat ≤ s.cfg.rxCap → s.cbMatch = some h → s.bodies = ⟨[], true⟩ :: q →
    parseFrame s.cfg.minAppLen (s.rxBytes 0 k.toNat) = .valid ack err sp → sp.off + 5 ≤ s.cfg.rxCap →
    ∃ (m : MatchResult) (d : Nat), exec (.onUartReceive k) s = .next
        { s with rxsz := k, op := .none, pend := ⟨none, s.pend.tx⟩, bodies := q, draws := d,
                 invoked := s.invoked ++ [⟨.onMatch, h, .matched m⟩] } ∧
      (err = 0 → 5 ≤ sp.len →
        m.score = be16 (s.rxByte (sp.off + 1)) (s.rxByte (sp.off + 2)) ∧
        m.fingerId = be16 (s.rxByte (sp.off + 3)) (s.rxByte (sp.off + 4)) ∧
        (s.rxByte sp.off = 0 → m.success = false ∧ d = s.draws) ∧
        (s.rxByte sp.off = 1 → m.success = true ∧ d = s.draws)) ∧
      (err ≠ 0 ∨ sp.len < 5 → d = s.draws + 3 ∧
        m = ⟨Config.freeBool s.draws, Config.freeHalf (s.draws + 1), Config.freeHalf (s.draws + 2)⟩)

/-- R256: a step of an asynchronous enrollment that is not the last invokes the progress callback and re-arms, and the
session goes on; R257: when the re-arm fails it ends with nothing more reported. -/
def Obligations.EnrollReplyReArmsOrEnds : Prop :=
  ∀ (s : State) (k : Half) (ack : Half) (sp : Span) (h : Handle) (q : List CallbackBody) (r : List Bool) (a : Bool),
    s.op = .asyncEnroll → s.pend.rx = some k → k.toNat ≤ s.cfg.rxCap → s.cbProgress = some h → s.bodies = ⟨[], true⟩ :: q →
    parseFrame s.cfg.minAppLen (s.rxBytes 0 k.toNat) = .valid ack 0 sp → 4 ≤ sp.len → sp.off + 4 ≤ s.cfg.rxCap →
    s.rxByte sp.off ≠ 0xFF → s.answers = a :: r →
    exec (.onUartReceive k) s = .next
      { s with rxsz := k, pend := ⟨none, s.pend.tx⟩, bodies := q, answers := r, rxArmed := a || s.rxArmed,
               op := (if a then .asyncEnroll else .none),
               invoked := s.invoked ++ [⟨.onProgress, h, .enroll ⟨false, s.rxByte sp.off, s.rxByte (sp.off + 3),
                 be16 (s.rxByte (sp.off + 1)) (s.rxByte (sp.off + 2)), 0⟩⟩] }

/-- R256: the last step, and a module error, invoke the progress callback and then the completion callback with the
same status, and the session ends; the receiver is not armed. -/
def Obligations.EnrollReplyCompletes : Prop :=
  ∀ (s : State) (k : Half) (ack : Half) (err : Word) (sp : Span) (h g : Handle) (q : List CallbackBody),
    s.op = .asyncEnroll → s.pend.rx = some k → k.toNat ≤ s.cfg.rxCap → s.cbProgress = some h →
    s.cbComplete = some g → s.bodies = ⟨[], true⟩ :: ⟨[], true⟩ :: q →
    parseFrame s.cfg.minAppLen (s.rxBytes 0 k.toNat) = .valid ack err sp →
    (err = 0 → 4 ≤ sp.len ∧ sp.off + 4 ≤ s.cfg.rxCap ∧ s.rxByte sp.off = 0xFF) →
    let st : EnrollStatus := if err = 0 then ⟨true, 0xFF, s.rxByte (sp.off + 3),
      be16 (s.rxByte (sp.off + 1)) (s.rxByte (sp.off + 2)), 0⟩ else ⟨true, 0, 0, 0, err⟩
    exec (.onUartReceive k) s = .next
      { s with rxsz := k, pend := ⟨none, s.pend.tx⟩, bodies := q, op := .none,
               invoked := s.invoked ++ [⟨.onProgress, h, .enroll st⟩, ⟨.onComplete, g, .enroll st⟩] }

/-- R260 (a): a call whose register is unset is skipped and everything else of R255 and R256 still happens, whatever the
other registers hold.  The spec's decision D29; the callbacks that are set call nothing and return (assumption 16). -/
def Obligations.UnsetCallbackIsSkipped : Prop :=
  ∀ (s : State) (k : Half) (ack : Half) (err : Word) (sp : Span),
    s.pend.rx = some k → k.toNat ≤ s.cfg.rxCap →
    parseFrame s.cfg.minAppLen (s.rxBytes 0 k.toNat) = .valid ack err sp →
    -- The match callback.
    (s.op = .asyncMatch → s.cbMatch = none → sp.off + 5 ≤ s.cfg.rxCap → ∃ d, exec (.onUartReceive k) s =
      .next { s with rxsz := k, op := .none, pend := ⟨none, s.pend.tx⟩, draws := d }) ∧
    -- The progress callback, at a step that is not the last.
    (s.op = .asyncEnroll → s.cbProgress = none → err = 0 → 4 ≤ sp.len → sp.off + 4 ≤ s.cfg.rxCap →
      s.rxByte sp.off ≠ 0xFF → ∀ a r, s.answers = a :: r → exec (.onUartReceive k) s =
        .next { s with rxsz := k, op := (if a then .asyncEnroll else .none), pend := ⟨none, s.pend.tx⟩,
                       answers := r, rxArmed := a || s.rxArmed }) ∧
    -- The end of an enrollment, by its last step or by a module error.
    (s.op = .asyncEnroll → (err = 0 → 4 ≤ sp.len ∧ sp.off + 4 ≤ s.cfg.rxCap ∧ s.rxByte sp.off = 0xFF) →
      let st : EnrollStatus := if err = 0 then ⟨true, 0xFF, s.rxByte (sp.off + 3),
        be16 (s.rxByte (sp.off + 1)) (s.rxByte (sp.off + 2)), 0⟩ else ⟨true, 0, 0, 0, err⟩
      (s.cbProgress = none → s.cbComplete = none → exec (.onUartReceive k) s =
        .next { s with rxsz := k, op := .none, pend := ⟨none, s.pend.tx⟩ }) ∧
      (∀ g q, s.cbProgress = none → s.cbComplete = some g → s.bodies = ⟨[], true⟩ :: q → exec (.onUartReceive k) s =
        .next { s with rxsz := k, op := .none, pend := ⟨none, s.pend.tx⟩, bodies := q,
                       invoked := s.invoked ++ [⟨.onComplete, g, .enroll st⟩] }) ∧
      (∀ h q, s.cbProgress = some h → s.cbComplete = none → s.bodies = ⟨[], true⟩ :: q → exec (.onUartReceive k) s =
        .next { s with rxsz := k, op := .none, pend := ⟨none, s.pend.tx⟩, bodies := q,
                       invoked := s.invoked ++ [⟨.onProgress, h, .enroll st⟩] }))

/-- R260 (c), R296: a registered callback that never returns leaves the handler at its call: the session stays as it is,
nothing that follows the call happens, and the two contexts have stopped (`hung`, assumption 16).  The callback may call
nothing, or block in DELAY_MS, after which none of its other calls is made.  The match callback; the progress callback,
at any step and at a module error; the completion callback, after a progress callback that returned and with none
registered. -/
def Obligations.HangingCallbackStopsTheBlock : Prop :=
  ∀ (s : State) (k : Half) (ack : Half) (err : Word) (sp : Span) (h : Handle) (b : CallbackBody)
    (q : List CallbackBody), (b = ⟨[], false⟩ ∨ ∃ is d, 0 < d ∧ b.calls = .delayMs d :: is) →
    s.pend.rx = some k → k.toNat ≤ s.cfg.rxCap →
    parseFrame s.cfg.minAppLen (s.rxBytes 0 k.toNat) = .valid ack err sp →
    (s.op = .asyncMatch → s.cbMatch = some h → s.bodies = b :: q → sp.off + 5 ≤ s.cfg.rxCap →
      ∃ (m : MatchResult) (d : Nat), exec (.onUartReceive k) s = .next
        { s with rxsz := k, pend := ⟨none, s.pend.tx⟩, bodies := q, hung := true, draws := d,
                 invoked := s.invoked ++ [⟨.onMatch, h, .matched m⟩] }) ∧
    (s.op = .asyncEnroll → (err = 0 → 4 ≤ sp.len ∧ sp.off + 4 ≤ s.cfg.rxCap) →
      let st : EnrollStatus := if err = 0 then ⟨decide (s.rxByte sp.off = 0xFF), s.rxByte sp.off,
        s.rxByte (sp.off + 3), be16 (s.rxByte (sp.off + 1)) (s.rxByte (sp.off + 2)), 0⟩ else ⟨true, 0, 0, 0, err⟩
      (s.cbProgress = some h → s.bodies = b :: q → exec (.onUartReceive k) s = .next
        { s with rxsz := k, pend := ⟨none, s.pend.tx⟩, bodies := q, hung := true,
                 invoked := s.invoked ++ [⟨.onProgress, h, .enroll st⟩] }) ∧
      (∀ g, s.cbProgress = some g → s.cbComplete = some h → s.bodies = ⟨[], true⟩ :: b :: q → st.isComplete = true →
        exec (.onUartReceive k) s = .next
          { s with rxsz := k, pend := ⟨none, s.pend.tx⟩, bodies := q, hung := true,
                   invoked := s.invoked ++ [⟨.onProgress, g, .enroll st⟩, ⟨.onComplete, h, .enroll st⟩] }) ∧
      (s.cbProgress = none → s.cbComplete = some h → s.bodies = b :: q → st.isComplete = true →
        exec (.onUartReceive k) s = .next
          { s with rxsz := k, pend := ⟨none, s.pend.tx⟩, bodies := q, hung := true,
                   invoked := s.invoked ++ [⟨.onComplete, h, .enroll st⟩] }))

/-- R324: ON_UART_RECEIVE is refused unless it is the transport's notification with the size reported; and a size beyond
`RX_CAP`, which no receive reports (R150), is an access outside the buffer (R51, assumption 19). -/
def Obligations.SpuriousNotificationIsRefused : Prop :=
  ∀ (s : State) (k : Half),
    (s.pend.rx ≠ some k → exec (.onUartReceive k) s = .refused .spuriousNotification) ∧
    (s.pend.rx = some k → s.cfg.rxCap < k.toNat → exec (.onUartReceive k) s = .fault .outsideBuffer)

/-! ### The step -/

/-- A step runs the decoded instruction: when the bytes issued next decode to an instruction, step is its meaning with
the event taken off the script; for a foreground operation when nothing is pending and none is in progress, for an entry
point of the notification context when no callback hangs, and for ON_TRANSMIT_COMPLETE when no receive-complete is
pending (R293 d).  The operation in progress goes on with a foreground event:
when nothing is pending and no delay is left, step is its meaning again. -/
def Obligations.StepRunsTheDecodedInstruction : Prop :=
  ∀ (s : State) (rest : List Event) (i : Instr),
    (∀ f bs, s.script = .issue f bs :: rest → decode s.cfg f bs = .ok i →
      (agentOf i = .foreground → s.hung = false → s.pend = ⟨none, false⟩ → s.fg.phase = .idle →
        step s = exec i { s with script := rest }) ∧
      (agentOf i = .notification → s.hung = false → (i = .onTransmitComplete → s.pend.rx = none) →
        step s = exec i { s with script := rest }) ∧
      (agentOf i = .peer → step s = exec i { s with script := rest })) ∧
    (s.script = .fg :: rest → s.hung = false → s.pend = ⟨none, false⟩ → s.fg.phase ≠ .idle → s.fg.sleep = 0 →
      s.fg.instr = some i → step s = exec i { s with script := rest })

/-- R293 (d), R294 (e): while a notification is pending no foreground step is taken, neither the next step of the
operation in progress nor a call issued by its bytes: the handler runs, receive-complete before transmit-complete, and
the foreground event is still to come.  An ON_TRANSMIT_COMPLETE issued by its bytes does not go before a pending
receive-complete either.  R296: while a callback hangs neither `FG` nor `IRQ` moves.  That the event is kept is the
model's choice (assumption 14). -/
def Obligations.NotificationGoesFirst : Prop :=
  ∀ (s : State) (rest : List Event) (e : Event), s.script = e :: rest →
    let issues := fun i => ∃ f bs, e = .issue f bs ∧ decode s.cfg f bs = .ok i
    let foreground := e = .fg ∨ ∃ i, issues i ∧ agentOf i = .foreground
    let entry := e = .irq ∨ ∃ i, issues i ∧ agentOf i = .notification
    (foreground ∨ issues .onTransmitComplete → s.hung = false → ∀ k, s.pend.rx = some k →
      step s = exec (.onUartReceive k) s) ∧
    (foreground → s.hung = false → s.pend = ⟨none, true⟩ → step s = .next { s with pend := ⟨none, false⟩ }) ∧
    (e = .irq → s.hung = false → ∀ k, s.pend.rx = some k → step s = exec (.onUartReceive k) { s with script := rest }) ∧
    (foreground ∨ entry → s.hung = true → step s = .next { s with script := rest })

/-- R324, R331: a second foreground operation while one is in progress is refused. -/
def Obligations.OverlappingOperationIsRefused : Prop :=
  ∀ (s : State) (f : Format) (bs : List Byte) (rest : List Event) (i : Instr), s.script = .issue f bs :: rest →
    decode s.cfg f bs = .ok i → agentOf i = .foreground → s.hung = false → s.pend = ⟨none, false⟩ →
    s.fg.phase ≠ .idle → step s = .refused .overlappingForeground

/-! ### The machine -/

/-- The invariant holds at reset, for every choice of the parameters and every value of the tick. -/
def Obligations.ResetMeetsTheInvariant : Prop :=
  ∀ (c : Config) (t : Nat), c.wf = true → t < 2 ^ c.tickBits → (State.resetWith c t).Inv

/-- The invariant is kept by every step from every state that meets it, whatever the script, the answers and the free
values. -/
def Obligations.EveryStepKeepsTheInvariant : Prop :=
  ∀ s t : State, s.Inv → step s = .next t → t.Inv

/-- R22, R250: `op` moves only along its table.  A session ends only in a step that is ON_UART_RECEIVE with a pending
size, or in the roll-back of a START at its arm or send; a session begins only in the check-and-set of a START that found
None.  CMD_MATCH_ASYNC is a START by the model's choice (assumption 10). -/
def Obligations.SessionMovesOnlyAlongItsTable : Prop :=
  ∀ s t : State, step s = .next t → t.op ≠ s.op →
    (s.op ≠ .none ∧ t.op = .none ∧
      ((∃ k, s.pend.rx = some k ∧ (exec (.onUartReceive k) s = .next t ∨
          exec (.onUartReceive k) { s with script := s.script.tail } = .next t)) ∨
        (s.script.head? = some .fg ∧ (s.fg.phase = .arm ∨ s.fg.phase = .send) ∧
          ∃ i, s.fg.instr = some i ∧ isStart i = true ∧ exec i { s with script := s.script.tail } = .next t))) ∨
    (s.op = .none ∧ s.script.head? = some .fg ∧ s.fg.phase = .check ∧
      ∃ i cmd p, s.fg.instr = some i ∧ startRequest i = some (t.op, cmd, p))

/-- R21: `pw` is written only by SET_PASSWORD (or its two frames, assumption 10) taking its last step, and only when it
ends with `OK`. -/
def Obligations.OnlySetPasswordWritesPw : Prop :=
  ∀ s t : State, step s = .next t → t.pw ≠ s.pw →
    s.script.head? = some .fg ∧ s.fg.phase = .done ∧ s.fg.result.status = .ok ∧
      ∃ i, s.fg.instr = some i ∧ newPassword i = some t.pw

/-- R26, R143, R52: `RX` is written only by the receive engine while armed, and its bytes are given up only by an abort:
the step `Abort`, ABORT_RECEIVE, or ABORT_RECEIVE called from inside a callback that a notification invokes.  A byte of
`RX` changes only where the list `rx` or `rxEpoch` does, and that is the premise.  That an abort leaves any bytes is the
spec's decision D16; what a callback calls is assumption 16. -/
def Obligations.OnlyEngineAndAbortWriteRx : Prop :=
  ∀ s t : State, step s = .next t → (t.rx ≠ s.rx ∨ t.rxEpoch ≠ s.rxEpoch ∨ ∃ a, t.rxByte a ≠ s.rxByte a) →
    (s.script.head? = some .rxe ∧ s.rxArmed = true ∧ t.rxEpoch = s.rxEpoch) ∨
    (s.script.head? = some .fg ∧ s.fg.phase = .abort) ∨
    (∃ f bs, s.script.head? = some (.issue f bs) ∧ decode s.cfg f bs = .ok .abortReceive) ∨
    (s.op ≠ .none ∧ s.pend.rx ≠ none ∧ ∃ b ∈ s.bodies, Instr.abortReceive ∈ b.calls)

/-- R7, R31: no step changes a parameter. -/
def Obligations.ParametersAreFixed : Prop :=
  ∀ s t : State, step s = .next t → t.cfg = s.cfg

/-! ### Encodings -/

/-- Decoding what the encoder writes gives the instruction back, with every operand; the two open codes need to differ
from the listed ones and from each other to be told apart. -/
def Obligations.DecodeOfEncode : Prop :=
  ∀ (c : Config) (i : Instr), i.wf = true → c.codesApart = true → decode c (formatOf i) (encode c i) = .ok i

/-- What the decoder accepts is well formed, of the format it was read in, and encoded by exactly those bytes: no byte
is dropped and no second byte sequence means the same. -/
def Obligations.EncodeOfDecode : Prop :=
  ∀ (c : Config) (f : Format) (bs : List Byte) (i : Instr), decode c f bs = .ok i →
    i.wf = true ∧ formatOf i = f ∧ encode c i = bs

/-- A few words written out from the tables of R102 and R90 and from R54. -/
def Obligations.SomeWordsDecode : Prop :=
  ∀ c : Config,
    decode c .opsel [0x36, 0x00, 0x42] = .ok (.deleteFingerprint 0x0042) ∧
    decode c .opsel [0x39, 0x12, 0x34, 0x56, 0x78, 0x01] = .ok (.setPassword 0x12345678 true) ∧
    decode c .opsel [0x33, 0x00, 0x05, 0x06, 0x00] = .ok (.autoEnroll 5 6 none) ∧
    decode c .appOut [0x01, 0x31, 0x00, 0x00, 0x42] = .ok (.cmdDeleteOne 0x0042) ∧
    decode c .appOut [0x02, 0x01, 0x12, 0x34, 0x56, 0x78] = .ok (.cmdSetPasswordTemp 0x12345678) ∧
    decode c .appIn [0x01, 0x31, 0, 0, 0, 0, 0, 0, 0, 0x17] = .ok (.response 0x0131 0 0x17 []) ∧
    decode c .opsel [0x3C, 0x02] = .reject .badFlag ∧
    decode c .opsel [0x41] = .reject .unknownOrdinal
end

