-- ==== Sys2Proof/Laws/Codec.lean ====
section
/-! SUPPORT. The small laws of byte order, of the byte sum and of the frame layouts. -/

namespace Sys2Proof

/-! ### Byte order (R54) -/

@[simp] theorem bytes16_length (v : Half) : (bytes16 v).length = 2 := rfl

@[simp] theorem bytes32_length (v : Word) : (bytes32 v).length = 4 := rfl

theorem be16_toNat (a b : Byte) : (be16 a b).toNat = a.toNat * 256 + b.toNat := by
  have := a.isLt
  have := b.isLt
  simp only [be16, BitVec.toNat_ofNat]
  omega

theorem be32_toNat (a b c d : Byte) :
    (be32 a b c d).toNat = a.toNat * 16777216 + b.toNat * 65536 + c.toNat * 256 + d.toNat := by
  have := a.isLt
  have := b.isLt
  have := c.isLt
  have := d.isLt
  simp only [be32, BitVec.toNat_ofNat]
  omega

/-- Assembling the two bytes of a `u16` gives it back. -/
theorem be16_of_bytes (v : Half) : be16 (BitVec.ofNat 8 (v.toNat / 256)) (BitVec.ofNat 8 v.toNat) = v := by
  apply BitVec.eq_of_toNat_eq
  have := v.isLt
  rw [be16_toNat]
  simp only [BitVec.toNat_ofNat]
  omega

/-- Assembling the four bytes of a `u32` gives it back. -/
theorem be32_of_bytes (v : Word) :
    be32 (BitVec.ofNat 8 (v.toNat / 16777216)) (BitVec.ofNat 8 (v.toNat / 65536)) (BitVec.ofNat 8 (v.toNat / 256))
      (BitVec.ofNat 8 v.toNat) = v := by
  apply BitVec.eq_of_toNat_eq
  have := v.isLt
  rw [be32_toNat]
  simp only [BitVec.toNat_ofNat]
  omega

/-- The bytes of an assembled `u16` are the bytes it was assembled from. -/
theorem bytes16_be16 (a b : Byte) : bytes16 (be16 a b) = [a, b] := by
  have ha := a.isLt
  have hb := b.isLt
  simp only [bytes16, be16_toNat, List.cons.injEq, and_true]
  constructor <;> (apply BitVec.eq_of_toNat_eq; simp only [BitVec.toNat_ofNat]; omega)

/-- The bytes of an assembled `u32` are the bytes it was assembled from. -/
theorem bytes32_be32 (a b c d : Byte) : bytes32 (be32 a b c d) = [a, b, c, d] := by
  have ha := a.isLt
  have hb := b.isLt
  have hc := c.isLt
  have hd := d.isLt
  simp only [bytes32, be32_toNat, List.cons.injEq, and_true]
  refine ⟨?_, ?_, ?_, ?_⟩ <;> (apply BitVec.eq_of_toNat_eq; simp only [BitVec.toNat_ofNat]; omega)

namespace Machine

/-! ### The byte sum (R120) -/

@[simp] theorem byteSum_nil : byteSum [] = 0 := rfl

@[simp] theorem byteSum_cons (b : Byte) (bs : List Byte) : byteSum (b :: bs) = b + byteSum bs := rfl

theorem byteSum_append (a b : List Byte) : byteSum (a ++ b) = byteSum a + byteSum b := by
  induction a with
  | nil => simp
  | cons x a ih => simp [ih, BitVec.add_assoc]

/-- The wrapping sum is the unbounded sum reduced modulo 256. -/
theorem byteSum_toNat (b : List Byte) : (byteSum b).toNat = (b.map BitVec.toNat).sum % 256 := by
  induction b with
  | nil => rfl
  | cons x b ih => simp only [byteSum_cons, BitVec.toNat_add, ih, List.map_cons, List.sum_cons]; omega

/-- `~sum + 1` is the negated sum. -/
theorem cks_eq_neg (b : List Byte) : cks b = - byteSum b := by
  have h : byteSum b ^^^ 0xFF = ~~~ byteSum b := BitVec.xor_allOnes
  rw [cks, h, BitVec.neg_eq_not_add]
  rfl

/-- A checksum byte is the right one exactly when the span with it sums to 0. -/
theorem cks_eq_iff (b : List Byte) (c : Byte) : cks b = c ↔ byteSum b + c = 0 := by
  rw [cks_eq_neg]
  constructor
  · rintro rfl
    exact BitVec.add_right_neg _
  · intro h
    exact neg_eq_of_add_eq_zero_right h

@[simp] theorem sealed_length (b : List Byte) : (sealed b).length = b.length + 1 := by simp [sealed]

/-! ### The layouts -/

@[simp] theorem magic_length : magic.length = 8 := rfl

@[simp] theorem linkLayer_length (n : Nat) : (linkLayer n).length = 11 := by simp [linkLayer]

@[simp] theorem outFields_length (pw : Word) (cmd : Half) (p : List Byte) :
    (outFields pw cmd p).length = 6 + p.length := by simp [outFields]; omega

@[simp] theorem inFields_length (pw : Word) (ack : Half) (err : Word) (p : List Byte) :
    (inFields pw ack err p).length = 10 + p.length := by simp [inFields]; omega

/-- The outbound length (R88). -/
@[simp] theorem outFrame_length (pw : Word) (cmd : Half) (p : List Byte) :
    (outFrame pw cmd p).length = 18 + p.length := by simp [outFrame]; omega

/-- The inbound length (R88). -/
@[simp] theorem inFrame_length (pw : Word) (ack : Half) (err : Word) (p : List Byte) :
    (inFrame pw ack err p).length = 22 + p.length := by simp [inFrame]; omega

/-! ### Slices -/

/-- A frame made of a sealed link layer and a sealed application layer whose length it claims is parsed by its fields:
all six checks pass when the length is not below the minimum. -/
theorem parseFrame_of_layers (m : Nat) (fields : List Byte) (h : fields.length + 1 ≤ 65535)
    (hm : m ≤ fields.length + 1) :
    parseFrame m (linkLayer (fields.length + 1) ++ sealed fields) =
      parsedFields (linkLayer (fields.length + 1) ++ sealed fields) ∧
    claimedLen (linkLayer (fields.length + 1) ++ sealed fields) = fields.length + 1 := by
  have hc : claimedLen (linkLayer (fields.length + 1) ++ sealed fields) = fields.length + 1 := by
    have : be16 (BitVec.ofNat 8 ((BitVec.ofNat 16 (fields.length + 1)).toNat / 256))
        (BitVec.ofNat 8 (BitVec.ofNat 16 (fields.length + 1)).toNat) = BitVec.ofNat 16 (fields.length + 1) :=
      be16_of_bytes _
    simp only [claimedLen, byteAt, linkLayer, sealed, magic, bytes16, List.cons_append, List.nil_append,
      List.getD_cons_succ, List.getD_cons_zero]
    rw [this, BitVec.toNat_ofNat]
    omega
  refine ⟨?_, hc⟩
  have h1 : slice (linkLayer (fields.length + 1) ++ sealed fields) 0 8 = magic := rfl
  have h2 : slice (linkLayer (fields.length + 1) ++ sealed fields) 0 10 =
      magic ++ bytes16 (BitVec.ofNat 16 (fields.length + 1)) := rfl
  have h3 : byteAt (linkLayer (fields.length + 1) ++ sealed fields) 10 =
      cks (magic ++ bytes16 (BitVec.ofNat 16 (fields.length + 1))) := rfl
  have h4 : slice (linkLayer (fields.length + 1) ++ sealed fields) 11 fields.length = fields := by
    have : (linkLayer (fields.length + 1) ++ sealed fields).drop 11 = sealed fields := rfl
    rw [slice, this, sealed, List.take_append_of_le_length (le_refl _), List.take_length]
  have h5 : byteAt (linkLayer (fields.length + 1) ++ sealed fields) (10 + (fields.length + 1)) = cks fields := by
    rw [byteAt, List.getD_append_right _ _ _ _ (by simp; omega)]
    simp only [linkLayer_length, sealed]
    rw [List.getD_append_right _ _ _ _ (by omega)]
    have : 10 + (fields.length + 1) - 11 - fields.length = 0 := by omega
    rw [this]
    rfl
  unfold parseFrame
  rw [hc, h1, h2, h3, h5]
  simp only [Nat.add_sub_cancel, h4]
  rw [if_neg (by simp), if_neg (by simp), if_neg (by simp), if_neg (by simp), if_neg (by omega),
    if_neg (by simp), if_neg (by omega)]

/-- The verdict `valid` means that the checks passed. -/
theorem parseFrame_valid {m : Nat} {raw : List Byte} (h : parseFrame m raw ≠ .invalid) :
    11 + claimedLen raw ≤ raw.length ∧ claimedLen raw ≠ 0 ∧ m ≤ claimedLen raw ∧ slice raw 0 8 = magic ∧
      cks (slice raw 0 10) = byteAt raw 10 ∧
      cks (slice raw 11 (claimedLen raw - 1)) = byteAt raw (10 + claimedLen raw) ∧
      parseFrame m raw = parsedFields raw := by
  unfold parseFrame at h ⊢
  split at h
  · exact absurd rfl h
  split at h
  · exact absurd rfl h
  split at h
  · exact absurd rfl h
  split at h
  · exact absurd rfl h
  split at h
  · exact absurd rfl h
  split at h
  · exact absurd rfl h
  split at h
  · exact absurd rfl h
  rename_i h1 h2 h3 h4 h5 h6 h7
  refine ⟨by omega, h5, by omega, not_not.mp h2, not_not.mp h3, not_not.mp h6, ?_⟩
  simp only [h1, h2, h3, h4, h5, h6, h7, if_false]

/-- The verdict depends only on the bytes it looks at: the first 11, and those of the claimed application layer. -/
theorem parseFrame_invalid_of_short {m : Nat} {raw : List Byte} (h : raw.length < 11 + claimedLen raw) :
    parseFrame m raw = .invalid := by
  by_contra hv
  have := (parseFrame_valid hv).1
  omega

end Machine

end Sys2Proof
end

