-- ==== Sys2Proof/Laws/Memory.lean ====
section
/-! SUPPORT. The laws of the byte buffers: a read after a write, a write leaves every other address alone, and every
operation keeps the canonical form and the bound. -/

namespace Sys2Proof.Machine

/-! ### One byte -/

@[simp] theorem Memory.read_nil (a : Nat) : Memory.read [] a = none := rfl

/-- A read at the address written gives the byte written. -/
@[simp] theorem Memory.read_write_same (m : Memory) (a : Nat) (v : Byte) :
    Memory.read (Memory.write m a v) a = some v := by
  induction m with
  | nil => simp [Memory.write, Memory.read]
  | cons c m ih =>
    obtain ⟨b, w⟩ := c
    simp only [Memory.write]
    split
    · simp [Memory.read]
    · split
      · simp [Memory.read]
      · rename_i h
        simp [Memory.read, h, ih]

/-- A read at any other address gives what it gave before. -/
theorem Memory.read_write_other (m : Memory) {a b : Nat} (v : Byte) (h : b ≠ a) :
    Memory.read (Memory.write m a v) b = Memory.read m b := by
  induction m with
  | nil => simp [Memory.write, Memory.read, h]
  | cons c m ih =>
    obtain ⟨x, w⟩ := c
    simp only [Memory.write]
    split
    · simp [Memory.read, h]
    · split
      · rename_i hx
        subst hx
        simp [Memory.read, h]
      · simp [Memory.read, ih]

/-! ### A byte sequence -/

/-- Addresses below the first one written are left alone. -/
theorem Memory.read_writeBytes_below (vs : List Byte) (m : Memory) {a b : Nat} (h : b < a) :
    Memory.read (Memory.writeBytes m a vs) b = Memory.read m b := by
  induction vs generalizing m a with
  | nil => rfl
  | cons v vs ih =>
    rw [Memory.writeBytes, ih _ (by omega), Memory.read_write_other _ _ (by omega)]

/-- Addresses past the last one written are left alone. -/
theorem Memory.read_writeBytes_above (vs : List Byte) (m : Memory) {a b : Nat} (h : a + vs.length ≤ b) :
    Memory.read (Memory.writeBytes m a vs) b = Memory.read m b := by
  induction vs generalizing m a with
  | nil => rfl
  | cons v vs ih =>
    rw [List.length_cons] at h
    rw [Memory.writeBytes, ih _ (by omega), Memory.read_write_other _ _ (by omega)]

/-- Inside, the read gives the byte of the sequence. -/
theorem Memory.read_writeBytes_inside (vs : List Byte) (m : Memory) (a : Nat) {i : Nat} (h : i < vs.length) :
    Memory.read (Memory.writeBytes m a vs) (a + i) = some vs[i] := by
  induction vs generalizing m a i with
  | nil => simp at h
  | cons v vs ih =>
    rw [Memory.writeBytes]
    cases i with
    | zero => rw [Nat.add_zero, Memory.read_writeBytes_below _ _ (by omega)]; simp
    | succ i =>
      have := ih (Memory.write m a v) (a + 1) (i := i) (by simpa using h)
      rw [show a + (i + 1) = a + 1 + i by omega, this]
      simp

/-! ### The canonical form -/

/-- Everything listed lies above an address. -/
def Memory.above (a : Nat) (m : Memory) : Prop := ∀ c ∈ m, a < c.1

/-- The canonical form of a nonempty list: the first address is below the others, and the rest is canonical. -/
theorem Memory.wf_cons {c : Host.Cell} {m : Memory} :
    Memory.wf (c :: m) = true ↔ Memory.above c.1 m ∧ Memory.wf m = true := by
  induction m generalizing c with
  | nil => simp [Memory.wf, Memory.above]
  | cons d m ih =>
    simp only [Memory.wf, Bool.and_eq_true, decide_eq_true_eq]
    constructor
    · rintro ⟨h1, h2⟩
      refine ⟨?_, h2⟩
      intro e he
      rcases List.mem_cons.mp he with rfl | he
      · exact h1
      · exact lt_trans h1 ((ih.mp h2).1 e he)
    · rintro ⟨h1, h2⟩
      exact ⟨h1 d (by simp), h2⟩

theorem Memory.above_write {a b : Nat} {m : Memory} (v : Byte) (h : b < a) (hm : Memory.above b m) :
    Memory.above b (Memory.write m a v) := by
  induction m with
  | nil => simpa [Memory.write, Memory.above] using h
  | cons c m ih =>
    obtain ⟨x, w⟩ := c
    have hx : b < x := hm (x, w) (by simp)
    have hr : Memory.above b m := fun e he => hm e (by simp [he])
    simp only [Memory.write]
    split
    · intro e he
      rcases List.mem_cons.mp he with rfl | he
      · exact h
      · exact hm e he
    · split
      · intro e he
        rcases List.mem_cons.mp he with rfl | he
        · exact h
        · exact hr e he
      · intro e he
        rcases List.mem_cons.mp he with rfl | he
        · exact hx
        · exact ih hr e he

/-- A write keeps the canonical form. -/
theorem Memory.wf_write (m : Memory) (a : Nat) (v : Byte) (h : Memory.wf m = true) :
    Memory.wf (Memory.write m a v) = true := by
  induction m with
  | nil => rfl
  | cons c m ih =>
    obtain ⟨x, w⟩ := c
    have hc := Memory.wf_cons.mp h
    simp only [Memory.write]
    split
    · rename_i hax
      refine Memory.wf_cons.mpr ⟨?_, h⟩
      intro e he
      rcases List.mem_cons.mp he with rfl | he
      · exact hax
      · exact lt_trans hax (hc.1 e he)
    · split
      · rename_i hax
        subst hax
        exact Memory.wf_cons.mpr hc
      · exact Memory.wf_cons.mpr ⟨Memory.above_write v (by dsimp only; omega) hc.1, ih hc.2⟩

/-- A write of a byte sequence keeps the canonical form. -/
theorem Memory.wf_writeBytes (vs : List Byte) (m : Memory) (a : Nat) (h : Memory.wf m = true) :
    Memory.wf (Memory.writeBytes m a vs) = true := by
  induction vs generalizing m a with
  | nil => exact h
  | cons v vs ih => exact ih _ _ (Memory.wf_write m a v h)

/-! ### The bound -/

theorem Memory.below_write {cap : Nat} (m : Memory) {a : Nat} (v : Byte) (ha : a < cap)
    (h : Memory.below cap m = true) : Memory.below cap (Memory.write m a v) = true := by
  simp only [Memory.below, List.all_eq_true, decide_eq_true_eq] at h ⊢
  induction m with
  | nil => simpa [Memory.write] using ha
  | cons c m ih =>
    obtain ⟨x, w⟩ := c
    have hx : x < cap := h (x, w) (by simp)
    have hr : ∀ e ∈ m, e.1 < cap := fun e he => h e (by simp [he])
    simp only [Memory.write]
    split
    · simp only [List.mem_cons, forall_eq_or_imp]; exact ⟨ha, hx, hr⟩
    · split
      · simp only [List.mem_cons, forall_eq_or_imp]; exact ⟨ha, hr⟩
      · simp only [List.mem_cons, forall_eq_or_imp]; exact ⟨hx, ih hr⟩

/-- A byte sequence that ends within the capacity keeps the bound. -/
theorem Memory.below_writeBytes {cap : Nat} (vs : List Byte) (m : Memory) {a : Nat} (ha : a + vs.length ≤ cap)
    (h : Memory.below cap m = true) : Memory.below cap (Memory.writeBytes m a vs) = true := by
  induction vs generalizing m a with
  | nil => exact h
  | cons v vs ih =>
    rw [List.length_cons] at ha
    exact ih _ (by omega) (Memory.below_write m v (by omega) h)

/-! ### The views of the two buffers -/

@[simp] theorem State.txBytes_length (s : State) (a n : Nat) : (s.txBytes a n).length = n := by simp [State.txBytes]

@[simp] theorem State.rxBytes_length (s : State) (a n : Nat) : (s.rxBytes a n).length = n := by simp [State.rxBytes]

/-- A byte of `TX` depends on the buffer alone. -/
theorem State.txByte_congr {s t : State} (h : t.tx = s.tx) (a : Nat) : t.txByte a = s.txByte a := by
  simp [State.txByte, h]

/-- A byte of `RX` depends on the buffer and the abort counter alone. -/
theorem State.rxByte_congr {s t : State} (h : t.rx = s.rx) (he : t.rxEpoch = s.rxEpoch) (a : Nat) :
    t.rxByte a = s.rxByte a := by simp [State.rxByte, h, he]

theorem State.rxBytes_congr {s t : State} (h : t.rx = s.rx) (he : t.rxEpoch = s.rxEpoch) (a n : Nat) :
    t.rxBytes a n = s.rxBytes a n := by
  simp only [State.rxBytes, State.rxByte_congr h he]

/-- The bytes just written to `TX` are read back. -/
theorem State.txBytes_of_write {s t : State} {vs : List Byte} (h : t.tx = Memory.writeBytes s.tx 0 vs) {n : Nat}
    (hn : n = vs.length) : t.txBytes 0 n = vs := by
  subst hn
  apply List.ext_getElem (by simp)
  intro i h1 h2
  have := Memory.read_writeBytes_inside vs s.tx 0 h2
  simp only [State.txBytes, List.getElem_map, List.getElem_range, State.txByte, h, this, Option.getD_some]

/-- Bytes of `TX` past the write are left alone. -/
theorem State.txByte_past_write {s t : State} {vs : List Byte} (h : t.tx = Memory.writeBytes s.tx 0 vs) {a : Nat}
    (ha : vs.length ≤ a) : t.txByte a = s.txByte a := by
  simp only [State.txByte, h]
  rw [Memory.read_writeBytes_above vs s.tx (by omega)]

/-- The bytes just written to `RX` are read back. -/
theorem State.rxBytes_of_write {s t : State} {vs : List Byte} (h : t.rx = Memory.writeBytes s.rx 0 vs) {n : Nat}
    (hn : n = vs.length) : t.rxBytes 0 n = vs := by
  subst hn
  apply List.ext_getElem (by simp)
  intro i h1 h2
  have := Memory.read_writeBytes_inside vs s.rx 0 h2
  simp only [State.rxBytes, List.getElem_map, List.getElem_range, State.rxByte, h, this, Option.getD_some]

/-- Bytes of `RX` past the write are left alone. -/
theorem State.rxByte_past_write {s t : State} {vs : List Byte} (h : t.rx = Memory.writeBytes s.rx 0 vs)
    (he : t.rxEpoch = s.rxEpoch) {a : Nat} (ha : vs.length ≤ a) : t.rxByte a = s.rxByte a := by
  simp only [State.rxByte, h, he]
  rw [Memory.read_writeBytes_above vs s.rx (by omega)]

/-- Byte `i` of the bytes received is byte `i` of `RX`. -/
theorem byteAt_rxBytes (s : State) {n i : Nat} (a : Nat) (h : i < n) : byteAt (s.rxBytes a n) i = s.rxByte (a + i) := by
  simp [byteAt, State.rxBytes, h]

/-- A slice of the bytes received is a read of `RX`. -/
theorem slice_rxBytes (s : State) {n off len : Nat} (h : off + len ≤ n) :
    slice (s.rxBytes 0 n) off len = s.rxBytes off len := by
  apply List.ext_getElem
  · simp [slice]; omega
  · intro i h1 h2
    simp [slice, State.rxBytes]

/-- The memory of the reset machine is canonical. -/
theorem reset_memory_wf (c : Config) (t : Nat) :
    Memory.wf (State.resetWith c t).tx = true ∧ Memory.wf (State.resetWith c t).rx = true := ⟨rfl, rfl⟩

end Sys2Proof.Machine
end

