-- ==== Sys2Proof/Laws/State.lean ====
section
/-! SUPPORT. One lemma per field and update, true by `rfl`: what each named update of the state writes and what it
leaves, so that no later proof unfolds a record update. -/

namespace Sys2Proof.Machine

/-! ### clearReady -/

@[simp] theorem clearReady_cfg (s : State) : (clearReady s).cfg = s.cfg := rfl
@[simp] theorem clearReady_pw (s : State) : (clearReady s).pw = s.pw := rfl
@[simp] theorem clearReady_op (s : State) : (clearReady s).op = s.op := rfl
@[simp] theorem clearReady_rdy (s : State) : (clearReady s).rdy = false := rfl
@[simp] theorem clearReady_rxsz (s : State) : (clearReady s).rxsz = s.rxsz := rfl
@[simp] theorem clearReady_tx (s : State) : (clearReady s).tx = s.tx := rfl
@[simp] theorem clearReady_rx (s : State) : (clearReady s).rx = s.rx := rfl
@[simp] theorem clearReady_cbMatch (s : State) : (clearReady s).cbMatch = s.cbMatch := rfl
@[simp] theorem clearReady_cbProgress (s : State) : (clearReady s).cbProgress = s.cbProgress := rfl
@[simp] theorem clearReady_cbComplete (s : State) : (clearReady s).cbComplete = s.cbComplete := rfl
@[simp] theorem clearReady_rxArmed (s : State) : (clearReady s).rxArmed = s.rxArmed := rfl
@[simp] theorem clearReady_txBusy (s : State) : (clearReady s).txBusy = s.txBusy := rfl
@[simp] theorem clearReady_txLen (s : State) : (clearReady s).txLen = s.txLen := rfl
@[simp] theorem clearReady_tick (s : State) : (clearReady s).tick = s.tick := rfl
@[simp] theorem clearReady_fg (s : State) : (clearReady s).fg = s.fg := rfl
@[simp] theorem clearReady_wireOut (s : State) : (clearReady s).wireOut = s.wireOut := rfl
@[simp] theorem clearReady_wireIn (s : State) : (clearReady s).wireIn = s.wireIn := rfl
@[simp] theorem clearReady_pend (s : State) : (clearReady s).pend = s.pend := rfl
@[simp] theorem clearReady_hung (s : State) : (clearReady s).hung = s.hung := rfl
@[simp] theorem clearReady_script (s : State) : (clearReady s).script = s.script := rfl
@[simp] theorem clearReady_answers (s : State) : (clearReady s).answers = s.answers := rfl
@[simp] theorem clearReady_bodies (s : State) : (clearReady s).bodies = s.bodies := rfl
@[simp] theorem clearReady_draws (s : State) : (clearReady s).draws = s.draws := rfl
@[simp] theorem clearReady_rxEpoch (s : State) : (clearReady s).rxEpoch = s.rxEpoch := rfl
@[simp] theorem clearReady_results (s : State) : (clearReady s).results = s.results := rfl
@[simp] theorem clearReady_invoked (s : State) : (clearReady s).invoked = s.invoked := rfl
@[simp] theorem clearReady_sent (s : State) : (clearReady s).sent = s.sent := rfl

/-! ### setReady -/

@[simp] theorem setReady_cfg (s : State) : (setReady s).cfg = s.cfg := rfl
@[simp] theorem setReady_pw (s : State) : (setReady s).pw = s.pw := rfl
@[simp] theorem setReady_op (s : State) : (setReady s).op = s.op := rfl
@[simp] theorem setReady_rdy (s : State) : (setReady s).rdy = true := rfl
@[simp] theorem setReady_rxsz (s : State) : (setReady s).rxsz = s.rxsz := rfl
@[simp] theorem setReady_tx (s : State) : (setReady s).tx = s.tx := rfl
@[simp] theorem setReady_rx (s : State) : (setReady s).rx = s.rx := rfl
@[simp] theorem setReady_cbMatch (s : State) : (setReady s).cbMatch = s.cbMatch := rfl
@[simp] theorem setReady_cbProgress (s : State) : (setReady s).cbProgress = s.cbProgress := rfl
@[simp] theorem setReady_cbComplete (s : State) : (setReady s).cbComplete = s.cbComplete := rfl
@[simp] theorem setReady_rxArmed (s : State) : (setReady s).rxArmed = s.rxArmed := rfl
@[simp] theorem setReady_txBusy (s : State) : (setReady s).txBusy = s.txBusy := rfl
@[simp] theorem setReady_txLen (s : State) : (setReady s).txLen = s.txLen := rfl
@[simp] theorem setReady_tick (s : State) : (setReady s).tick = s.tick := rfl
@[simp] theorem setReady_fg (s : State) : (setReady s).fg = s.fg := rfl
@[simp] theorem setReady_wireOut (s : State) : (setReady s).wireOut = s.wireOut := rfl
@[simp] theorem setReady_wireIn (s : State) : (setReady s).wireIn = s.wireIn := rfl
@[simp] theorem setReady_pend (s : State) : (setReady s).pend = s.pend := rfl
@[simp] theorem setReady_hung (s : State) : (setReady s).hung = s.hung := rfl
@[simp] theorem setReady_script (s : State) : (setReady s).script = s.script := rfl
@[simp] theorem setReady_answers (s : State) : (setReady s).answers = s.answers := rfl
@[simp] theorem setReady_bodies (s : State) : (setReady s).bodies = s.bodies := rfl
@[simp] theorem setReady_draws (s : State) : (setReady s).draws = s.draws := rfl
@[simp] theorem setReady_rxEpoch (s : State) : (setReady s).rxEpoch = s.rxEpoch := rfl
@[simp] theorem setReady_results (s : State) : (setReady s).results = s.results := rfl
@[simp] theorem setReady_invoked (s : State) : (setReady s).invoked = s.invoked := rfl
@[simp] theorem setReady_sent (s : State) : (setReady s).sent = s.sent := rfl

/-! ### endSession -/

@[simp] theorem endSession_cfg (s : State) : (endSession s).cfg = s.cfg := rfl
@[simp] theorem endSession_pw (s : State) : (endSession s).pw = s.pw := rfl
@[simp] theorem endSession_op (s : State) : (endSession s).op = .none := rfl
@[simp] theorem endSession_rdy (s : State) : (endSession s).rdy = s.rdy := rfl
@[simp] theorem endSession_rxsz (s : State) : (endSession s).rxsz = s.rxsz := rfl
@[simp] theorem endSession_tx (s : State) : (endSession s).tx = s.tx := rfl
@[simp] theorem endSession_rx (s : State) : (endSession s).rx = s.rx := rfl
@[simp] theorem endSession_cbMatch (s : State) : (endSession s).cbMatch = s.cbMatch := rfl
@[simp] theorem endSession_cbProgress (s : State) : (endSession s).cbProgress = s.cbProgress := rfl
@[simp] theorem endSession_cbComplete (s : State) : (endSession s).cbComplete = s.cbComplete := rfl
@[simp] theorem endSession_rxArmed (s : State) : (endSession s).rxArmed = s.rxArmed := rfl
@[simp] theorem endSession_txBusy (s : State) : (endSession s).txBusy = s.txBusy := rfl
@[simp] theorem endSession_txLen (s : State) : (endSession s).txLen = s.txLen := rfl
@[simp] theorem endSession_tick (s : State) : (endSession s).tick = s.tick := rfl
@[simp] theorem endSession_fg (s : State) : (endSession s).fg = s.fg := rfl
@[simp] theorem endSession_wireOut (s : State) : (endSession s).wireOut = s.wireOut := rfl
@[simp] theorem endSession_wireIn (s : State) : (endSession s).wireIn = s.wireIn := rfl
@[simp] theorem endSession_pend (s : State) : (endSession s).pend = s.pend := rfl
@[simp] theorem endSession_hung (s : State) : (endSession s).hung = s.hung := rfl
@[simp] theorem endSession_script (s : State) : (endSession s).script = s.script := rfl
@[simp] theorem endSession_answers (s : State) : (endSession s).answers = s.answers := rfl
@[simp] theorem endSession_bodies (s : State) : (endSession s).bodies = s.bodies := rfl
@[simp] theorem endSession_draws (s : State) : (endSession s).draws = s.draws := rfl
@[simp] theorem endSession_rxEpoch (s : State) : (endSession s).rxEpoch = s.rxEpoch := rfl
@[simp] theorem endSession_results (s : State) : (endSession s).results = s.results := rfl
@[simp] theorem endSession_invoked (s : State) : (endSession s).invoked = s.invoked := rfl
@[simp] theorem endSession_sent (s : State) : (endSession s).sent = s.sent := rfl

/-! ### openSession -/

@[simp] theorem openSession_cfg (x : Session) (s : State) : (openSession x s).cfg = s.cfg := rfl
@[simp] theorem openSession_pw (x : Session) (s : State) : (openSession x s).pw = s.pw := rfl
@[simp] theorem openSession_op (x : Session) (s : State) : (openSession x s).op = x := rfl
@[simp] theorem openSession_rdy (x : Session) (s : State) : (openSession x s).rdy = s.rdy := rfl
@[simp] theorem openSession_rxsz (x : Session) (s : State) : (openSession x s).rxsz = s.rxsz := rfl
@[simp] theorem openSession_tx (x : Session) (s : State) : (openSession x s).tx = s.tx := rfl
@[simp] theorem openSession_rx (x : Session) (s : State) : (openSession x s).rx = s.rx := rfl
@[simp] theorem openSession_cbMatch (x : Session) (s : State) : (openSession x s).cbMatch = s.cbMatch := rfl
@[simp] theorem openSession_cbProgress (x : Session) (s : State) : (openSession x s).cbProgress = s.cbProgress := rfl
@[simp] theorem openSession_cbComplete (x : Session) (s : State) : (openSession x s).cbComplete = s.cbComplete := rfl
@[simp] theorem openSession_rxArmed (x : Session) (s : State) : (openSession x s).rxArmed = s.rxArmed := rfl
@[simp] theorem openSession_txBusy (x : Session) (s : State) : (openSession x s).txBusy = s.txBusy := rfl
@[simp] theorem openSession_txLen (x : Session) (s : State) : (openSession x s).txLen = s.txLen := rfl
@[simp] theorem openSession_tick (x : Session) (s : State) : (openSession x s).tick = s.tick := rfl
@[simp] theorem openSession_fg (x : Session) (s : State) : (openSession x s).fg = s.fg := rfl
@[simp] theorem openSession_wireOut (x : Session) (s : State) : (openSession x s).wireOut = s.wireOut := rfl
@[simp] theorem openSession_wireIn (x : Session) (s : State) : (openSession x s).wireIn = s.wireIn := rfl
@[simp] theorem openSession_pend (x : Session) (s : State) : (openSession x s).pend = s.pend := rfl
@[simp] theorem openSession_hung (x : Session) (s : State) : (openSession x s).hung = s.hung := rfl
@[simp] theorem openSession_script (x : Session) (s : State) : (openSession x s).script = s.script := rfl
@[simp] theorem openSession_answers (x : Session) (s : State) : (openSession x s).answers = s.answers := rfl
@[simp] theorem openSession_bodies (x : Session) (s : State) : (openSession x s).bodies = s.bodies := rfl
@[simp] theorem openSession_draws (x : Session) (s : State) : (openSession x s).draws = s.draws := rfl
@[simp] theorem openSession_rxEpoch (x : Session) (s : State) : (openSession x s).rxEpoch = s.rxEpoch := rfl
@[simp] theorem openSession_results (x : Session) (s : State) : (openSession x s).results = s.results := rfl
@[simp] theorem openSession_invoked (x : Session) (s : State) : (openSession x s).invoked = s.invoked := rfl
@[simp] theorem openSession_sent (x : Session) (s : State) : (openSession x s).sent = s.sent := rfl

/-! ### setPhase -/

@[simp] theorem setPhase_cfg (p : Phase) (s : State) : (setPhase p s).cfg = s.cfg := rfl
@[simp] theorem setPhase_pw (p : Phase) (s : State) : (setPhase p s).pw = s.pw := rfl
@[simp] theorem setPhase_op (p : Phase) (s : State) : (setPhase p s).op = s.op := rfl
@[simp] theorem setPhase_rdy (p : Phase) (s : State) : (setPhase p s).rdy = s.rdy := rfl
@[simp] theorem setPhase_rxsz (p : Phase) (s : State) : (setPhase p s).rxsz = s.rxsz := rfl
@[simp] theorem setPhase_tx (p : Phase) (s : State) : (setPhase p s).tx = s.tx := rfl
@[simp] theorem setPhase_rx (p : Phase) (s : State) : (setPhase p s).rx = s.rx := rfl
@[simp] theorem setPhase_cbMatch (p : Phase) (s : State) : (setPhase p s).cbMatch = s.cbMatch := rfl
@[simp] theorem setPhase_cbProgress (p : Phase) (s : State) : (setPhase p s).cbProgress = s.cbProgress := rfl
@[simp] theorem setPhase_cbComplete (p : Phase) (s : State) : (setPhase p s).cbComplete = s.cbComplete := rfl
@[simp] theorem setPhase_rxArmed (p : Phase) (s : State) : (setPhase p s).rxArmed = s.rxArmed := rfl
@[simp] theorem setPhase_txBusy (p : Phase) (s : State) : (setPhase p s).txBusy = s.txBusy := rfl
@[simp] theorem setPhase_txLen (p : Phase) (s : State) : (setPhase p s).txLen = s.txLen := rfl
@[simp] theorem setPhase_tick (p : Phase) (s : State) : (setPhase p s).tick = s.tick := rfl
@[simp] theorem setPhase_fg (p : Phase) (s : State) : (setPhase p s).fg = { s.fg with phase := p } := rfl
@[simp] theorem setPhase_wireOut (p : Phase) (s : State) : (setPhase p s).wireOut = s.wireOut := rfl
@[simp] theorem setPhase_wireIn (p : Phase) (s : State) : (setPhase p s).wireIn = s.wireIn := rfl
@[simp] theorem setPhase_pend (p : Phase) (s : State) : (setPhase p s).pend = s.pend := rfl
@[simp] theorem setPhase_hung (p : Phase) (s : State) : (setPhase p s).hung = s.hung := rfl
@[simp] theorem setPhase_script (p : Phase) (s : State) : (setPhase p s).script = s.script := rfl
@[simp] theorem setPhase_answers (p : Phase) (s : State) : (setPhase p s).answers = s.answers := rfl
@[simp] theorem setPhase_bodies (p : Phase) (s : State) : (setPhase p s).bodies = s.bodies := rfl
@[simp] theorem setPhase_draws (p : Phase) (s : State) : (setPhase p s).draws = s.draws := rfl
@[simp] theorem setPhase_rxEpoch (p : Phase) (s : State) : (setPhase p s).rxEpoch = s.rxEpoch := rfl
@[simp] theorem setPhase_results (p : Phase) (s : State) : (setPhase p s).results = s.results := rfl
@[simp] theorem setPhase_invoked (p : Phase) (s : State) : (setPhase p s).invoked = s.invoked := rfl
@[simp] theorem setPhase_sent (p : Phase) (s : State) : (setPhase p s).sent = s.sent := rfl

/-! ### raise -/

@[simp] theorem raise_cfg (st : Status) (e : Word) (s : State) : (raise st e s).cfg = s.cfg := rfl
@[simp] theorem raise_pw (st : Status) (e : Word) (s : State) : (raise st e s).pw = s.pw := rfl
@[simp] theorem raise_op (st : Status) (e : Word) (s : State) : (raise st e s).op = s.op := rfl
@[simp] theorem raise_rdy (st : Status) (e : Word) (s : State) : (raise st e s).rdy = s.rdy := rfl
@[simp] theorem raise_rxsz (st : Status) (e : Word) (s : State) : (raise st e s).rxsz = s.rxsz := rfl
@[simp] theorem raise_tx (st : Status) (e : Word) (s : State) : (raise st e s).tx = s.tx := rfl
@[simp] theorem raise_rx (st : Status) (e : Word) (s : State) : (raise st e s).rx = s.rx := rfl
@[simp] theorem raise_cbMatch (st : Status) (e : Word) (s : State) : (raise st e s).cbMatch = s.cbMatch := rfl
@[simp] theorem raise_cbProgress (st : Status) (e : Word) (s : State) : (raise st e s).cbProgress = s.cbProgress := rfl
@[simp] theorem raise_cbComplete (st : Status) (e : Word) (s : State) : (raise st e s).cbComplete = s.cbComplete := rfl
@[simp] theorem raise_rxArmed (st : Status) (e : Word) (s : State) : (raise st e s).rxArmed = s.rxArmed := rfl
@[simp] theorem raise_txBusy (st : Status) (e : Word) (s : State) : (raise st e s).txBusy = s.txBusy := rfl
@[simp] theorem raise_txLen (st : Status) (e : Word) (s : State) : (raise st e s).txLen = s.txLen := rfl
@[simp] theorem raise_tick (st : Status) (e : Word) (s : State) : (raise st e s).tick = s.tick := rfl
@[simp] theorem raise_fg (st : Status) (e : Word) (s : State) :
    (raise st e s).fg = { s.fg with phase := .done, result := ⟨st, e⟩ } := rfl
@[simp] theorem raise_wireOut (st : Status) (e : Word) (s : State) : (raise st e s).wireOut = s.wireOut := rfl
@[simp] theorem raise_wireIn (st : Status) (e : Word) (s : State) : (raise st e s).wireIn = s.wireIn := rfl
@[simp] theorem raise_pend (st : Status) (e : Word) (s : State) : (raise st e s).pend = s.pend := rfl
@[simp] theorem raise_hung (st : Status) (e : Word) (s : State) : (raise st e s).hung = s.hung := rfl
@[simp] theorem raise_script (st : Status) (e : Word) (s : State) : (raise st e s).script = s.script := rfl
@[simp] theorem raise_answers (st : Status) (e : Word) (s : State) : (raise st e s).answers = s.answers := rfl
@[simp] theorem raise_bodies (st : Status) (e : Word) (s : State) : (raise st e s).bodies = s.bodies := rfl
@[simp] theorem raise_draws (st : Status) (e : Word) (s : State) : (raise st e s).draws = s.draws := rfl
@[simp] theorem raise_rxEpoch (st : Status) (e : Word) (s : State) : (raise st e s).rxEpoch = s.rxEpoch := rfl
@[simp] theorem raise_results (st : Status) (e : Word) (s : State) : (raise st e s).results = s.results := rfl
@[simp] theorem raise_invoked (st : Status) (e : Word) (s : State) : (raise st e s).invoked = s.invoked := rfl
@[simp] theorem raise_sent (st : Status) (e : Word) (s : State) : (raise st e s).sent = s.sent := rfl

/-! ### returnToCaller -/

@[simp] theorem returnToCaller_cfg (o : OutValue) (s : State) : (returnToCaller o s).cfg = s.cfg := rfl
@[simp] theorem returnToCaller_pw (o : OutValue) (s : State) : (returnToCaller o s).pw = s.pw := rfl
@[simp] theorem returnToCaller_op (o : OutValue) (s : State) : (returnToCaller o s).op = s.op := rfl
@[simp] theorem returnToCaller_rdy (o : OutValue) (s : State) : (returnToCaller o s).rdy = s.rdy := rfl
@[simp] theorem returnToCaller_rxsz (o : OutValue) (s : State) : (returnToCaller o s).rxsz = s.rxsz := rfl
@[simp] theorem returnToCaller_tx (o : OutValue) (s : State) : (returnToCaller o s).tx = s.tx := rfl
@[simp] theorem returnToCaller_rx (o : OutValue) (s : State) : (returnToCaller o s).rx = s.rx := rfl
@[simp] theorem returnToCaller_cbMatch (o : OutValue) (s : State) : (returnToCaller o s).cbMatch = s.cbMatch := rfl
@[simp] theorem returnToCaller_cbProgress (o : OutValue) (s : State) :
    (returnToCaller o s).cbProgress = s.cbProgress := rfl
@[simp] theorem returnToCaller_cbComplete (o : OutValue) (s : State) :
    (returnToCaller o s).cbComplete = s.cbComplete := rfl
@[simp] theorem returnToCaller_rxArmed (o : OutValue) (s : State) : (returnToCaller o s).rxArmed = s.rxArmed := rfl
@[simp] theorem returnToCaller_txBusy (o : OutValue) (s : State) : (returnToCaller o s).txBusy = s.txBusy := rfl
@[simp] theorem returnToCaller_txLen (o : OutValue) (s : State) : (returnToCaller o s).txLen = s.txLen := rfl
@[simp] theorem returnToCaller_tick (o : OutValue) (s : State) : (returnToCaller o s).tick = s.tick := rfl
@[simp] theorem returnToCaller_fg (o : OutValue) (s : State) :
    (returnToCaller o s).fg = { s.fg with phase := .idle, instr := none } := rfl
@[simp] theorem returnToCaller_wireOut (o : OutValue) (s : State) : (returnToCaller o s).wireOut = s.wireOut := rfl
@[simp] theorem returnToCaller_wireIn (o : OutValue) (s : State) : (returnToCaller o s).wireIn = s.wireIn := rfl
@[simp] theorem returnToCaller_pend (o : OutValue) (s : State) : (returnToCaller o s).pend = s.pend := rfl
@[simp] theorem returnToCaller_hung (o : OutValue) (s : State) : (returnToCaller o s).hung = s.hung := rfl
@[simp] theorem returnToCaller_script (o : OutValue) (s : State) : (returnToCaller o s).script = s.script := rfl
@[simp] theorem returnToCaller_answers (o : OutValue) (s : State) : (returnToCaller o s).answers = s.answers := rfl
@[simp] theorem returnToCaller_bodies (o : OutValue) (s : State) : (returnToCaller o s).bodies = s.bodies := rfl
@[simp] theorem returnToCaller_draws (o : OutValue) (s : State) : (returnToCaller o s).draws = s.draws := rfl
@[simp] theorem returnToCaller_rxEpoch (o : OutValue) (s : State) : (returnToCaller o s).rxEpoch = s.rxEpoch := rfl
@[simp] theorem returnToCaller_results (o : OutValue) (s : State) :
    (returnToCaller o s).results = s.results ++ [⟨some s.fg.result, o⟩] := rfl
@[simp] theorem returnToCaller_invoked (o : OutValue) (s : State) : (returnToCaller o s).invoked = s.invoked := rfl
@[simp] theorem returnToCaller_sent (o : OutValue) (s : State) : (returnToCaller o s).sent = s.sent := rfl

/-! ### answerCaller -/

@[simp] theorem answerCaller_cfg (o : OutValue) (s : State) : (answerCaller o s).cfg = s.cfg := rfl
@[simp] theorem answerCaller_pw (o : OutValue) (s : State) : (answerCaller o s).pw = s.pw := rfl
@[simp] theorem answerCaller_op (o : OutValue) (s : State) : (answerCaller o s).op = s.op := rfl
@[simp] theorem answerCaller_rdy (o : OutValue) (s : State) : (answerCaller o s).rdy = s.rdy := rfl
@[simp] theorem answerCaller_rxsz (o : OutValue) (s : State) : (answerCaller o s).rxsz = s.rxsz := rfl
@[simp] theorem answerCaller_tx (o : OutValue) (s : State) : (answerCaller o s).tx = s.tx := rfl
@[simp] theorem answerCaller_rx (o : OutValue) (s : State) : (answerCaller o s).rx = s.rx := rfl
@[simp] theorem answerCaller_cbMatch (o : OutValue) (s : State) : (answerCaller o s).cbMatch = s.cbMatch := rfl
@[simp] theorem answerCaller_cbProgress (o : OutValue) (s : State) : (answerCaller o s).cbProgress = s.cbProgress := rfl
@[simp] theorem answerCaller_cbComplete (o : OutValue) (s : State) : (answerCaller o s).cbComplete = s.cbComplete := rfl
@[simp] theorem answerCaller_rxArmed (o : OutValue) (s : State) : (answerCaller o s).rxArmed = s.rxArmed := rfl
@[simp] theorem answerCaller_txBusy (o : OutValue) (s : State) : (answerCaller o s).txBusy = s.txBusy := rfl
@[simp] theorem answerCaller_txLen (o : OutValue) (s : State) : (answerCaller o s).txLen = s.txLen := rfl
@[simp] theorem answerCaller_tick (o : OutValue) (s : State) : (answerCaller o s).tick = s.tick := rfl
@[simp] theorem answerCaller_fg (o : OutValue) (s : State) : (answerCaller o s).fg = s.fg := rfl
@[simp] theorem answerCaller_wireOut (o : OutValue) (s : State) : (answerCaller o s).wireOut = s.wireOut := rfl
@[simp] theorem answerCaller_wireIn (o : OutValue) (s : State) : (answerCaller o s).wireIn = s.wireIn := rfl
@[simp] theorem answerCaller_pend (o : OutValue) (s : State) : (answerCaller o s).pend = s.pend := rfl
@[simp] theorem answerCaller_hung (o : OutValue) (s : State) : (answerCaller o s).hung = s.hung := rfl
@[simp] theorem answerCaller_script (o : OutValue) (s : State) : (answerCaller o s).script = s.script := rfl
@[simp] theorem answerCaller_answers (o : OutValue) (s : State) : (answerCaller o s).answers = s.answers := rfl
@[simp] theorem answerCaller_bodies (o : OutValue) (s : State) : (answerCaller o s).bodies = s.bodies := rfl
@[simp] theorem answerCaller_draws (o : OutValue) (s : State) : (answerCaller o s).draws = s.draws := rfl
@[simp] theorem answerCaller_rxEpoch (o : OutValue) (s : State) : (answerCaller o s).rxEpoch = s.rxEpoch := rfl
@[simp] theorem answerCaller_results (o : OutValue) (s : State) :
    (answerCaller o s).results = s.results ++ [⟨none, o⟩] := rfl
@[simp] theorem answerCaller_invoked (o : OutValue) (s : State) : (answerCaller o s).invoked = s.invoked := rfl
@[simp] theorem answerCaller_sent (o : OutValue) (s : State) : (answerCaller o s).sent = s.sent := rfl

/-! ### putFrame -/

@[simp] theorem putFrame_cfg (c : Half) (p : List Byte) (s : State) : (putFrame c p s).cfg = s.cfg := rfl
@[simp] theorem putFrame_pw (c : Half) (p : List Byte) (s : State) : (putFrame c p s).pw = s.pw := rfl
@[simp] theorem putFrame_op (c : Half) (p : List Byte) (s : State) : (putFrame c p s).op = s.op := rfl
@[simp] theorem putFrame_rdy (c : Half) (p : List Byte) (s : State) : (putFrame c p s).rdy = s.rdy := rfl
@[simp] theorem putFrame_rxsz (c : Half) (p : List Byte) (s : State) : (putFrame c p s).rxsz = s.rxsz := rfl
@[simp] theorem putFrame_tx (c : Half) (p : List Byte) (s : State) :
    (putFrame c p s).tx = Memory.writeBytes s.tx 0 (outFrame s.pw c p) := by
  simp only [putFrame]
@[simp] theorem putFrame_rx (c : Half) (p : List Byte) (s : State) : (putFrame c p s).rx = s.rx := rfl
@[simp] theorem putFrame_cbMatch (c : Half) (p : List Byte) (s : State) : (putFrame c p s).cbMatch = s.cbMatch := rfl
@[simp] theorem putFrame_cbProgress (c : Half) (p : List Byte) (s : State) :
    (putFrame c p s).cbProgress = s.cbProgress := rfl
@[simp] theorem putFrame_cbComplete (c : Half) (p : List Byte) (s : State) :
    (putFrame c p s).cbComplete = s.cbComplete := rfl
@[simp] theorem putFrame_rxArmed (c : Half) (p : List Byte) (s : State) : (putFrame c p s).rxArmed = s.rxArmed := rfl
@[simp] theorem putFrame_txBusy (c : Half) (p : List Byte) (s : State) : (putFrame c p s).txBusy = s.txBusy := rfl
@[simp] theorem putFrame_txLen (c : Half) (p : List Byte) (s : State) : (putFrame c p s).txLen = s.txLen := rfl
@[simp] theorem putFrame_tick (c : Half) (p : List Byte) (s : State) : (putFrame c p s).tick = s.tick := rfl
@[simp] theorem putFrame_fg (c : Half) (p : List Byte) (s : State) : (putFrame c p s).fg = s.fg := rfl
@[simp] theorem putFrame_wireOut (c : Half) (p : List Byte) (s : State) : (putFrame c p s).wireOut = s.wireOut := rfl
@[simp] theorem putFrame_wireIn (c : Half) (p : List Byte) (s : State) : (putFrame c p s).wireIn = s.wireIn := rfl
@[simp] theorem putFrame_pend (c : Half) (p : List Byte) (s : State) : (putFrame c p s).pend = s.pend := rfl
@[simp] theorem putFrame_hung (c : Half) (p : List Byte) (s : State) : (putFrame c p s).hung = s.hung := rfl
@[simp] theorem putFrame_script (c : Half) (p : List Byte) (s : State) : (putFrame c p s).script = s.script := rfl
@[simp] theorem putFrame_answers (c : Half) (p : List Byte) (s : State) : (putFrame c p s).answers = s.answers := rfl
@[simp] theorem putFrame_bodies (c : Half) (p : List Byte) (s : State) : (putFrame c p s).bodies = s.bodies := rfl
@[simp] theorem putFrame_draws (c : Half) (p : List Byte) (s : State) : (putFrame c p s).draws = s.draws := rfl
@[simp] theorem putFrame_rxEpoch (c : Half) (p : List Byte) (s : State) : (putFrame c p s).rxEpoch = s.rxEpoch := rfl
@[simp] theorem putFrame_results (c : Half) (p : List Byte) (s : State) : (putFrame c p s).results = s.results := rfl
@[simp] theorem putFrame_invoked (c : Half) (p : List Byte) (s : State) : (putFrame c p s).invoked = s.invoked := rfl
@[simp] theorem putFrame_sent (c : Half) (p : List Byte) (s : State) : (putFrame c p s).sent = s.sent := rfl

/-! ### abortReceive -/

@[simp] theorem abortReceive_cfg (s : State) : (abortReceive s).cfg = s.cfg := rfl
@[simp] theorem abortReceive_pw (s : State) : (abortReceive s).pw = s.pw := rfl
@[simp] theorem abortReceive_op (s : State) : (abortReceive s).op = s.op := rfl
@[simp] theorem abortReceive_rdy (s : State) : (abortReceive s).rdy = s.rdy := rfl
@[simp] theorem abortReceive_rxsz (s : State) : (abortReceive s).rxsz = s.rxsz := rfl
@[simp] theorem abortReceive_tx (s : State) : (abortReceive s).tx = s.tx := rfl
@[simp] theorem abortReceive_rx (s : State) : (abortReceive s).rx = [] := rfl
@[simp] theorem abortReceive_cbMatch (s : State) : (abortReceive s).cbMatch = s.cbMatch := rfl
@[simp] theorem abortReceive_cbProgress (s : State) : (abortReceive s).cbProgress = s.cbProgress := rfl
@[simp] theorem abortReceive_cbComplete (s : State) : (abortReceive s).cbComplete = s.cbComplete := rfl
@[simp] theorem abortReceive_rxArmed (s : State) : (abortReceive s).rxArmed = false := rfl
@[simp] theorem abortReceive_txBusy (s : State) : (abortReceive s).txBusy = s.txBusy := rfl
@[simp] theorem abortReceive_txLen (s : State) : (abortReceive s).txLen = s.txLen := rfl
@[simp] theorem abortReceive_tick (s : State) : (abortReceive s).tick = s.tick := rfl
@[simp] theorem abortReceive_fg (s : State) : (abortReceive s).fg = s.fg := rfl
@[simp] theorem abortReceive_wireOut (s : State) : (abortReceive s).wireOut = s.wireOut := rfl
@[simp] theorem abortReceive_wireIn (s : State) : (abortReceive s).wireIn = s.wireIn := rfl
@[simp] theorem abortReceive_pend (s : State) : (abortReceive s).pend = s.pend := rfl
@[simp] theorem abortReceive_hung (s : State) : (abortReceive s).hung = s.hung := rfl
@[simp] theorem abortReceive_script (s : State) : (abortReceive s).script = s.script := rfl
@[simp] theorem abortReceive_answers (s : State) : (abortReceive s).answers = s.answers := rfl
@[simp] theorem abortReceive_bodies (s : State) : (abortReceive s).bodies = s.bodies := rfl
@[simp] theorem abortReceive_draws (s : State) : (abortReceive s).draws = s.draws := rfl
@[simp] theorem abortReceive_rxEpoch (s : State) : (abortReceive s).rxEpoch = s.rxEpoch + 1 := rfl
@[simp] theorem abortReceive_results (s : State) : (abortReceive s).results = s.results := rfl
@[simp] theorem abortReceive_invoked (s : State) : (abortReceive s).invoked = s.invoked := rfl
@[simp] theorem abortReceive_sent (s : State) : (abortReceive s).sent = s.sent := rfl

/-! ### beginCall -/

@[simp] theorem beginCall_cfg (i : Instr) (c : Half) (p : List Byte) (s : State) :
    (beginCall i c p s).cfg = s.cfg := rfl
@[simp] theorem beginCall_pw (i : Instr) (c : Half) (p : List Byte) (s : State) : (beginCall i c p s).pw = s.pw := rfl
@[simp] theorem beginCall_op (i : Instr) (c : Half) (p : List Byte) (s : State) : (beginCall i c p s).op = s.op := rfl
@[simp] theorem beginCall_rdy (i : Instr) (c : Half) (p : List Byte) (s : State) :
    (beginCall i c p s).rdy = s.rdy := rfl
@[simp] theorem beginCall_rxsz (i : Instr) (c : Half) (p : List Byte) (s : State) :
    (beginCall i c p s).rxsz = s.rxsz := rfl
@[simp] theorem beginCall_tx (i : Instr) (c : Half) (p : List Byte) (s : State) : (beginCall i c p s).tx = s.tx := rfl
@[simp] theorem beginCall_rx (i : Instr) (c : Half) (p : List Byte) (s : State) : (beginCall i c p s).rx = s.rx := rfl
@[simp] theorem beginCall_cbMatch (i : Instr) (c : Half) (p : List Byte) (s : State) :
    (beginCall i c p s).cbMatch = s.cbMatch := rfl
@[simp] theorem beginCall_cbProgress (i : Instr) (c : Half) (p : List Byte) (s : State) :
    (beginCall i c p s).cbProgress = s.cbProgress := rfl
@[simp] theorem beginCall_cbComplete (i : Instr) (c : Half) (p : List Byte) (s : State) :
    (beginCall i c p s).cbComplete = s.cbComplete := rfl
@[simp] theorem beginCall_rxArmed (i : Instr) (c : Half) (p : List Byte) (s : State) :
    (beginCall i c p s).rxArmed = s.rxArmed := rfl
@[simp] theorem beginCall_txBusy (i : Instr) (c : Half) (p : List Byte) (s : State) :
    (beginCall i c p s).txBusy = s.txBusy := rfl
@[simp] theorem beginCall_txLen (i : Instr) (c : Half) (p : List Byte) (s : State) :
    (beginCall i c p s).txLen = s.txLen := rfl
@[simp] theorem beginCall_tick (i : Instr) (c : Half) (p : List Byte) (s : State) :
    (beginCall i c p s).tick = s.tick := rfl
@[simp] theorem beginCall_fg (i : Instr) (c : Half) (p : List Byte) (s : State) : (beginCall i c p s).fg = 
      { s.fg with phase := .check, instr := some i, sleep := 0, cmd := c, payload := p, result := ⟨.ok, 0⟩,
                  span := none, enroll := EnrollStatus.zero } := rfl
@[simp] theorem beginCall_wireOut (i : Instr) (c : Half) (p : List Byte) (s : State) :
    (beginCall i c p s).wireOut = s.wireOut := rfl
@[simp] theorem beginCall_wireIn (i : Instr) (c : Half) (p : List Byte) (s : State) :
    (beginCall i c p s).wireIn = s.wireIn := rfl
@[simp] theorem beginCall_pend (i : Instr) (c : Half) (p : List Byte) (s : State) :
    (beginCall i c p s).pend = s.pend := rfl
@[simp] theorem beginCall_hung (i : Instr) (c : Half) (p : List Byte) (s : State) :
    (beginCall i c p s).hung = s.hung := rfl
@[simp] theorem beginCall_script (i : Instr) (c : Half) (p : List Byte) (s : State) :
    (beginCall i c p s).script = s.script := rfl
@[simp] theorem beginCall_answers (i : Instr) (c : Half) (p : List Byte) (s : State) :
    (beginCall i c p s).answers = s.answers := rfl
@[simp] theorem beginCall_bodies (i : Instr) (c : Half) (p : List Byte) (s : State) :
    (beginCall i c p s).bodies = s.bodies := rfl
@[simp] theorem beginCall_draws (i : Instr) (c : Half) (p : List Byte) (s : State) :
    (beginCall i c p s).draws = s.draws := rfl
@[simp] theorem beginCall_rxEpoch (i : Instr) (c : Half) (p : List Byte) (s : State) :
    (beginCall i c p s).rxEpoch = s.rxEpoch := rfl
@[simp] theorem beginCall_results (i : Instr) (c : Half) (p : List Byte) (s : State) :
    (beginCall i c p s).results = s.results := rfl
@[simp] theorem beginCall_invoked (i : Instr) (c : Half) (p : List Byte) (s : State) :
    (beginCall i c p s).invoked = s.invoked := rfl
@[simp] theorem beginCall_sent (i : Instr) (c : Half) (p : List Byte) (s : State) :
    (beginCall i c p s).sent = s.sent := rfl

/-! ### openWindow -/

@[simp] theorem openWindow_cfg (w : Nat) (s : State) : (openWindow w s).cfg = s.cfg := rfl
@[simp] theorem openWindow_pw (w : Nat) (s : State) : (openWindow w s).pw = s.pw := rfl
@[simp] theorem openWindow_op (w : Nat) (s : State) : (openWindow w s).op = s.op := rfl
@[simp] theorem openWindow_rdy (w : Nat) (s : State) : (openWindow w s).rdy = s.rdy := rfl
@[simp] theorem openWindow_rxsz (w : Nat) (s : State) : (openWindow w s).rxsz = s.rxsz := rfl
@[simp] theorem openWindow_tx (w : Nat) (s : State) : (openWindow w s).tx = s.tx := rfl
@[simp] theorem openWindow_rx (w : Nat) (s : State) : (openWindow w s).rx = s.rx := rfl
@[simp] theorem openWindow_cbMatch (w : Nat) (s : State) : (openWindow w s).cbMatch = s.cbMatch := rfl
@[simp] theorem openWindow_cbProgress (w : Nat) (s : State) : (openWindow w s).cbProgress = s.cbProgress := rfl
@[simp] theorem openWindow_cbComplete (w : Nat) (s : State) : (openWindow w s).cbComplete = s.cbComplete := rfl
@[simp] theorem openWindow_rxArmed (w : Nat) (s : State) : (openWindow w s).rxArmed = s.rxArmed := rfl
@[simp] theorem openWindow_txBusy (w : Nat) (s : State) : (openWindow w s).txBusy = s.txBusy := rfl
@[simp] theorem openWindow_txLen (w : Nat) (s : State) : (openWindow w s).txLen = s.txLen := rfl
@[simp] theorem openWindow_tick (w : Nat) (s : State) : (openWindow w s).tick = s.tick := rfl
@[simp] theorem openWindow_fg (w : Nat) (s : State) :
    (openWindow w s).fg = { s.fg with t0 := s.tick, timeout := w, phase := .wait } := rfl
@[simp] theorem openWindow_wireOut (w : Nat) (s : State) : (openWindow w s).wireOut = s.wireOut := rfl
@[simp] theorem openWindow_wireIn (w : Nat) (s : State) : (openWindow w s).wireIn = s.wireIn := rfl
@[simp] theorem openWindow_pend (w : Nat) (s : State) : (openWindow w s).pend = s.pend := rfl
@[simp] theorem openWindow_hung (w : Nat) (s : State) : (openWindow w s).hung = s.hung := rfl
@[simp] theorem openWindow_script (w : Nat) (s : State) : (openWindow w s).script = s.script := rfl
@[simp] theorem openWindow_answers (w : Nat) (s : State) : (openWindow w s).answers = s.answers := rfl
@[simp] theorem openWindow_bodies (w : Nat) (s : State) : (openWindow w s).bodies = s.bodies := rfl
@[simp] theorem openWindow_draws (w : Nat) (s : State) : (openWindow w s).draws = s.draws := rfl
@[simp] theorem openWindow_rxEpoch (w : Nat) (s : State) : (openWindow w s).rxEpoch = s.rxEpoch := rfl
@[simp] theorem openWindow_results (w : Nat) (s : State) : (openWindow w s).results = s.results := rfl
@[simp] theorem openWindow_invoked (w : Nat) (s : State) : (openWindow w s).invoked = s.invoked := rfl
@[simp] theorem openWindow_sent (w : Nat) (s : State) : (openWindow w s).sent = s.sent := rfl

/-! ### beginDelay -/

@[simp] theorem beginDelay_cfg (i : Instr) (d : Nat) (s : State) : (beginDelay i d s).cfg = s.cfg := rfl
@[simp] theorem beginDelay_pw (i : Instr) (d : Nat) (s : State) : (beginDelay i d s).pw = s.pw := rfl
@[simp] theorem beginDelay_op (i : Instr) (d : Nat) (s : State) : (beginDelay i d s).op = s.op := rfl
@[simp] theorem beginDelay_rdy (i : Instr) (d : Nat) (s : State) : (beginDelay i d s).rdy = s.rdy := rfl
@[simp] theorem beginDelay_rxsz (i : Instr) (d : Nat) (s : State) : (beginDelay i d s).rxsz = s.rxsz := rfl
@[simp] theorem beginDelay_tx (i : Instr) (d : Nat) (s : State) : (beginDelay i d s).tx = s.tx := rfl
@[simp] theorem beginDelay_rx (i : Instr) (d : Nat) (s : State) : (beginDelay i d s).rx = s.rx := rfl
@[simp] theorem beginDelay_cbMatch (i : Instr) (d : Nat) (s : State) : (beginDelay i d s).cbMatch = s.cbMatch := rfl
@[simp] theorem beginDelay_cbProgress (i : Instr) (d : Nat) (s : State) :
    (beginDelay i d s).cbProgress = s.cbProgress := rfl
@[simp] theorem beginDelay_cbComplete (i : Instr) (d : Nat) (s : State) :
    (beginDelay i d s).cbComplete = s.cbComplete := rfl
@[simp] theorem beginDelay_rxArmed (i : Instr) (d : Nat) (s : State) : (beginDelay i d s).rxArmed = s.rxArmed := rfl
@[simp] theorem beginDelay_txBusy (i : Instr) (d : Nat) (s : State) : (beginDelay i d s).txBusy = s.txBusy := rfl
@[simp] theorem beginDelay_txLen (i : Instr) (d : Nat) (s : State) : (beginDelay i d s).txLen = s.txLen := rfl
@[simp] theorem beginDelay_tick (i : Instr) (d : Nat) (s : State) : (beginDelay i d s).tick = s.tick := rfl
@[simp] theorem beginDelay_fg (i : Instr) (d : Nat) (s : State) :
    (beginDelay i d s).fg = { s.fg with phase := .done, instr := some i, sleep := d } := rfl
@[simp] theorem beginDelay_wireOut (i : Instr) (d : Nat) (s : State) : (beginDelay i d s).wireOut = s.wireOut := rfl
@[simp] theorem beginDelay_wireIn (i : Instr) (d : Nat) (s : State) : (beginDelay i d s).wireIn = s.wireIn := rfl
@[simp] theorem beginDelay_pend (i : Instr) (d : Nat) (s : State) : (beginDelay i d s).pend = s.pend := rfl
@[simp] theorem beginDelay_hung (i : Instr) (d : Nat) (s : State) : (beginDelay i d s).hung = s.hung := rfl
@[simp] theorem beginDelay_script (i : Instr) (d : Nat) (s : State) : (beginDelay i d s).script = s.script := rfl
@[simp] theorem beginDelay_answers (i : Instr) (d : Nat) (s : State) : (beginDelay i d s).answers = s.answers := rfl
@[simp] theorem beginDelay_bodies (i : Instr) (d : Nat) (s : State) : (beginDelay i d s).bodies = s.bodies := rfl
@[simp] theorem beginDelay_draws (i : Instr) (d : Nat) (s : State) : (beginDelay i d s).draws = s.draws := rfl
@[simp] theorem beginDelay_rxEpoch (i : Instr) (d : Nat) (s : State) : (beginDelay i d s).rxEpoch = s.rxEpoch := rfl
@[simp] theorem beginDelay_results (i : Instr) (d : Nat) (s : State) : (beginDelay i d s).results = s.results := rfl
@[simp] theorem beginDelay_invoked (i : Instr) (d : Nat) (s : State) : (beginDelay i d s).invoked = s.invoked := rfl
@[simp] theorem beginDelay_sent (i : Instr) (d : Nat) (s : State) : (beginDelay i d s).sent = s.sent := rfl

/-! ### recordReceive -/

@[simp] theorem recordReceive_cfg (k : Half) (s : State) : (recordReceive k s).cfg = s.cfg := rfl
@[simp] theorem recordReceive_pw (k : Half) (s : State) : (recordReceive k s).pw = s.pw := rfl
@[simp] theorem recordReceive_op (k : Half) (s : State) : (recordReceive k s).op = s.op := rfl
@[simp] theorem recordReceive_rdy (k : Half) (s : State) : (recordReceive k s).rdy = s.rdy := rfl
@[simp] theorem recordReceive_rxsz (k : Half) (s : State) : (recordReceive k s).rxsz = k := rfl
@[simp] theorem recordReceive_tx (k : Half) (s : State) : (recordReceive k s).tx = s.tx := rfl
@[simp] theorem recordReceive_rx (k : Half) (s : State) : (recordReceive k s).rx = s.rx := rfl
@[simp] theorem recordReceive_cbMatch (k : Half) (s : State) : (recordReceive k s).cbMatch = s.cbMatch := rfl
@[simp] theorem recordReceive_cbProgress (k : Half) (s : State) : (recordReceive k s).cbProgress = s.cbProgress := rfl
@[simp] theorem recordReceive_cbComplete (k : Half) (s : State) : (recordReceive k s).cbComplete = s.cbComplete := rfl
@[simp] theorem recordReceive_rxArmed (k : Half) (s : State) : (recordReceive k s).rxArmed = s.rxArmed := rfl
@[simp] theorem recordReceive_txBusy (k : Half) (s : State) : (recordReceive k s).txBusy = s.txBusy := rfl
@[simp] theorem recordReceive_txLen (k : Half) (s : State) : (recordReceive k s).txLen = s.txLen := rfl
@[simp] theorem recordReceive_tick (k : Half) (s : State) : (recordReceive k s).tick = s.tick := rfl
@[simp] theorem recordReceive_fg (k : Half) (s : State) : (recordReceive k s).fg = s.fg := rfl
@[simp] theorem recordReceive_wireOut (k : Half) (s : State) : (recordReceive k s).wireOut = s.wireOut := rfl
@[simp] theorem recordReceive_wireIn (k : Half) (s : State) : (recordReceive k s).wireIn = s.wireIn := rfl
@[simp] theorem recordReceive_pend (k : Half) (s : State) : (recordReceive k s).pend = { s.pend with rx := none } := rfl
@[simp] theorem recordReceive_hung (k : Half) (s : State) : (recordReceive k s).hung = s.hung := rfl
@[simp] theorem recordReceive_script (k : Half) (s : State) : (recordReceive k s).script = s.script := rfl
@[simp] theorem recordReceive_answers (k : Half) (s : State) : (recordReceive k s).answers = s.answers := rfl
@[simp] theorem recordReceive_bodies (k : Half) (s : State) : (recordReceive k s).bodies = s.bodies := rfl
@[simp] theorem recordReceive_draws (k : Half) (s : State) : (recordReceive k s).draws = s.draws := rfl
@[simp] theorem recordReceive_rxEpoch (k : Half) (s : State) : (recordReceive k s).rxEpoch = s.rxEpoch := rfl
@[simp] theorem recordReceive_results (k : Half) (s : State) : (recordReceive k s).results = s.results := rfl
@[simp] theorem recordReceive_invoked (k : Half) (s : State) : (recordReceive k s).invoked = s.invoked := rfl
@[simp] theorem recordReceive_sent (k : Half) (s : State) : (recordReceive k s).sent = s.sent := rfl

/-! ### answerBusy -/

@[simp] theorem answerBusy_cfg (o : OutValue) (s : State) : (answerBusy o s).cfg = s.cfg := rfl
@[simp] theorem answerBusy_pw (o : OutValue) (s : State) : (answerBusy o s).pw = s.pw := rfl
@[simp] theorem answerBusy_op (o : OutValue) (s : State) : (answerBusy o s).op = s.op := rfl
@[simp] theorem answerBusy_rdy (o : OutValue) (s : State) : (answerBusy o s).rdy = s.rdy := rfl
@[simp] theorem answerBusy_rxsz (o : OutValue) (s : State) : (answerBusy o s).rxsz = s.rxsz := rfl
@[simp] theorem answerBusy_tx (o : OutValue) (s : State) : (answerBusy o s).tx = s.tx := rfl
@[simp] theorem answerBusy_rx (o : OutValue) (s : State) : (answerBusy o s).rx = s.rx := rfl
@[simp] theorem answerBusy_cbMatch (o : OutValue) (s : State) : (answerBusy o s).cbMatch = s.cbMatch := rfl
@[simp] theorem answerBusy_cbProgress (o : OutValue) (s : State) : (answerBusy o s).cbProgress = s.cbProgress := rfl
@[simp] theorem answerBusy_cbComplete (o : OutValue) (s : State) : (answerBusy o s).cbComplete = s.cbComplete := rfl
@[simp] theorem answerBusy_rxArmed (o : OutValue) (s : State) : (answerBusy o s).rxArmed = s.rxArmed := rfl
@[simp] theorem answerBusy_txBusy (o : OutValue) (s : State) : (answerBusy o s).txBusy = s.txBusy := rfl
@[simp] theorem answerBusy_txLen (o : OutValue) (s : State) : (answerBusy o s).txLen = s.txLen := rfl
@[simp] theorem answerBusy_tick (o : OutValue) (s : State) : (answerBusy o s).tick = s.tick := rfl
@[simp] theorem answerBusy_fg (o : OutValue) (s : State) : (answerBusy o s).fg = s.fg := rfl
@[simp] theorem answerBusy_wireOut (o : OutValue) (s : State) : (answerBusy o s).wireOut = s.wireOut := rfl
@[simp] theorem answerBusy_wireIn (o : OutValue) (s : State) : (answerBusy o s).wireIn = s.wireIn := rfl
@[simp] theorem answerBusy_pend (o : OutValue) (s : State) : (answerBusy o s).pend = s.pend := rfl
@[simp] theorem answerBusy_hung (o : OutValue) (s : State) : (answerBusy o s).hung = s.hung := rfl
@[simp] theorem answerBusy_script (o : OutValue) (s : State) : (answerBusy o s).script = s.script := rfl
@[simp] theorem answerBusy_answers (o : OutValue) (s : State) : (answerBusy o s).answers = s.answers := rfl
@[simp] theorem answerBusy_bodies (o : OutValue) (s : State) : (answerBusy o s).bodies = s.bodies := rfl
@[simp] theorem answerBusy_draws (o : OutValue) (s : State) : (answerBusy o s).draws = s.draws := rfl
@[simp] theorem answerBusy_rxEpoch (o : OutValue) (s : State) : (answerBusy o s).rxEpoch = s.rxEpoch := rfl
@[simp] theorem answerBusy_results (o : OutValue) (s : State) :
    (answerBusy o s).results = s.results ++ [⟨some ⟨.busy, 0⟩, o⟩] := rfl
@[simp] theorem answerBusy_invoked (o : OutValue) (s : State) : (answerBusy o s).invoked = s.invoked := rfl
@[simp] theorem answerBusy_sent (o : OutValue) (s : State) : (answerBusy o s).sent = s.sent := rfl

/-! ### hang -/

@[simp] theorem hang_cfg (s : State) : (hang s).cfg = s.cfg := rfl
@[simp] theorem hang_pw (s : State) : (hang s).pw = s.pw := rfl
@[simp] theorem hang_op (s : State) : (hang s).op = s.op := rfl
@[simp] theorem hang_rdy (s : State) : (hang s).rdy = s.rdy := rfl
@[simp] theorem hang_rxsz (s : State) : (hang s).rxsz = s.rxsz := rfl
@[simp] theorem hang_tx (s : State) : (hang s).tx = s.tx := rfl
@[simp] theorem hang_rx (s : State) : (hang s).rx = s.rx := rfl
@[simp] theorem hang_cbMatch (s : State) : (hang s).cbMatch = s.cbMatch := rfl
@[simp] theorem hang_cbProgress (s : State) : (hang s).cbProgress = s.cbProgress := rfl
@[simp] theorem hang_cbComplete (s : State) : (hang s).cbComplete = s.cbComplete := rfl
@[simp] theorem hang_rxArmed (s : State) : (hang s).rxArmed = s.rxArmed := rfl
@[simp] theorem hang_txBusy (s : State) : (hang s).txBusy = s.txBusy := rfl
@[simp] theorem hang_txLen (s : State) : (hang s).txLen = s.txLen := rfl
@[simp] theorem hang_tick (s : State) : (hang s).tick = s.tick := rfl
@[simp] theorem hang_fg (s : State) : (hang s).fg = s.fg := rfl
@[simp] theorem hang_wireOut (s : State) : (hang s).wireOut = s.wireOut := rfl
@[simp] theorem hang_wireIn (s : State) : (hang s).wireIn = s.wireIn := rfl
@[simp] theorem hang_pend (s : State) : (hang s).pend = s.pend := rfl
@[simp] theorem hang_hung (s : State) : (hang s).hung = true := rfl
@[simp] theorem hang_script (s : State) : (hang s).script = s.script := rfl
@[simp] theorem hang_answers (s : State) : (hang s).answers = s.answers := rfl
@[simp] theorem hang_bodies (s : State) : (hang s).bodies = s.bodies := rfl
@[simp] theorem hang_draws (s : State) : (hang s).draws = s.draws := rfl
@[simp] theorem hang_rxEpoch (s : State) : (hang s).rxEpoch = s.rxEpoch := rfl
@[simp] theorem hang_results (s : State) : (hang s).results = s.results := rfl
@[simp] theorem hang_invoked (s : State) : (hang s).invoked = s.invoked := rfl
@[simp] theorem hang_sent (s : State) : (hang s).sent = s.sent := rfl

/-! ### recordCall -/

@[simp] theorem recordCall_cfg (role : CallbackRole) (h : Handle) (arg : CallbackArg) (s : State) :
    (recordCall role h arg s).cfg = s.cfg := rfl
@[simp] theorem recordCall_pw (role : CallbackRole) (h : Handle) (arg : CallbackArg) (s : State) :
    (recordCall role h arg s).pw = s.pw := rfl
@[simp] theorem recordCall_op (role : CallbackRole) (h : Handle) (arg : CallbackArg) (s : State) :
    (recordCall role h arg s).op = s.op := rfl
@[simp] theorem recordCall_rdy (role : CallbackRole) (h : Handle) (arg : CallbackArg) (s : State) :
    (recordCall role h arg s).rdy = s.rdy := rfl
@[simp] theorem recordCall_rxsz (role : CallbackRole) (h : Handle) (arg : CallbackArg) (s : State) :
    (recordCall role h arg s).rxsz = s.rxsz := rfl
@[simp] theorem recordCall_tx (role : CallbackRole) (h : Handle) (arg : CallbackArg) (s : State) :
    (recordCall role h arg s).tx = s.tx := rfl
@[simp] theorem recordCall_rx (role : CallbackRole) (h : Handle) (arg : CallbackArg) (s : State) :
    (recordCall role h arg s).rx = s.rx := rfl
@[simp] theorem recordCall_cbMatch (role : CallbackRole) (h : Handle) (arg : CallbackArg) (s : State) :
    (recordCall role h arg s).cbMatch = s.cbMatch := rfl
@[simp] theorem recordCall_cbProgress (role : CallbackRole) (h : Handle) (arg : CallbackArg) (s : State) :
    (recordCall role h arg s).cbProgress = s.cbProgress := rfl
@[simp] theorem recordCall_cbComplete (role : CallbackRole) (h : Handle) (arg : CallbackArg) (s : State) :
    (recordCall role h arg s).cbComplete = s.cbComplete := rfl
@[simp] theorem recordCall_rxArmed (role : CallbackRole) (h : Handle) (arg : CallbackArg) (s : State) :
    (recordCall role h arg s).rxArmed = s.rxArmed := rfl
@[simp] theorem recordCall_txBusy (role : CallbackRole) (h : Handle) (arg : CallbackArg) (s : State) :
    (recordCall role h arg s).txBusy = s.txBusy := rfl
@[simp] theorem recordCall_txLen (role : CallbackRole) (h : Handle) (arg : CallbackArg) (s : State) :
    (recordCall role h arg s).txLen = s.txLen := rfl
@[simp] theorem recordCall_tick (role : CallbackRole) (h : Handle) (arg : CallbackArg) (s : State) :
    (recordCall role h arg s).tick = s.tick := rfl
@[simp] theorem recordCall_fg (role : CallbackRole) (h : Handle) (arg : CallbackArg) (s : State) :
    (recordCall role h arg s).fg = s.fg := rfl
@[simp] theorem recordCall_wireOut (role : CallbackRole) (h : Handle) (arg : CallbackArg) (s : State) :
    (recordCall role h arg s).wireOut = s.wireOut := rfl
@[simp] theorem recordCall_wireIn (role : CallbackRole) (h : Handle) (arg : CallbackArg) (s : State) :
    (recordCall role h arg s).wireIn = s.wireIn := rfl
@[simp] theorem recordCall_pend (role : CallbackRole) (h : Handle) (arg : CallbackArg) (s : State) :
    (recordCall role h arg s).pend = s.pend := rfl
@[simp] theorem recordCall_hung (role : CallbackRole) (h : Handle) (arg : CallbackArg) (s : State) :
    (recordCall role h arg s).hung = s.hung := rfl
@[simp] theorem recordCall_script (role : CallbackRole) (h : Handle) (arg : CallbackArg) (s : State) :
    (recordCall role h arg s).script = s.script := rfl
@[simp] theorem recordCall_answers (role : CallbackRole) (h : Handle) (arg : CallbackArg) (s : State) :
    (recordCall role h arg s).answers = s.answers := rfl
@[simp] theorem recordCall_bodies (role : CallbackRole) (h : Handle) (arg : CallbackArg) (s : State) :
    (recordCall role h arg s).bodies = s.bodies := rfl
@[simp] theorem recordCall_draws (role : CallbackRole) (h : Handle) (arg : CallbackArg) (s : State) :
    (recordCall role h arg s).draws = s.draws := rfl
@[simp] theorem recordCall_rxEpoch (role : CallbackRole) (h : Handle) (arg : CallbackArg) (s : State) :
    (recordCall role h arg s).rxEpoch = s.rxEpoch := rfl
@[simp] theorem recordCall_results (role : CallbackRole) (h : Handle) (arg : CallbackArg) (s : State) :
    (recordCall role h arg s).results = s.results := rfl
@[simp] theorem recordCall_invoked (role : CallbackRole) (h : Handle) (arg : CallbackArg) (s : State) :
    (recordCall role h arg s).invoked = s.invoked ++ [⟨role, h, arg⟩] := rfl
@[simp] theorem recordCall_sent (role : CallbackRole) (h : Handle) (arg : CallbackArg) (s : State) :
    (recordCall role h arg s).sent = s.sent := rfl

/-! ### dropEvent -/

@[simp] theorem dropEvent_cfg (s : State) : (dropEvent s).cfg = s.cfg := rfl
@[simp] theorem dropEvent_pw (s : State) : (dropEvent s).pw = s.pw := rfl
@[simp] theorem dropEvent_op (s : State) : (dropEvent s).op = s.op := rfl
@[simp] theorem dropEvent_rdy (s : State) : (dropEvent s).rdy = s.rdy := rfl
@[simp] theorem dropEvent_rxsz (s : State) : (dropEvent s).rxsz = s.rxsz := rfl
@[simp] theorem dropEvent_tx (s : State) : (dropEvent s).tx = s.tx := rfl
@[simp] theorem dropEvent_rx (s : State) : (dropEvent s).rx = s.rx := rfl
@[simp] theorem dropEvent_cbMatch (s : State) : (dropEvent s).cbMatch = s.cbMatch := rfl
@[simp] theorem dropEvent_cbProgress (s : State) : (dropEvent s).cbProgress = s.cbProgress := rfl
@[simp] theorem dropEvent_cbComplete (s : State) : (dropEvent s).cbComplete = s.cbComplete := rfl
@[simp] theorem dropEvent_rxArmed (s : State) : (dropEvent s).rxArmed = s.rxArmed := rfl
@[simp] theorem dropEvent_txBusy (s : State) : (dropEvent s).txBusy = s.txBusy := rfl
@[simp] theorem dropEvent_txLen (s : State) : (dropEvent s).txLen = s.txLen := rfl
@[simp] theorem dropEvent_tick (s : State) : (dropEvent s).tick = s.tick := rfl
@[simp] theorem dropEvent_fg (s : State) : (dropEvent s).fg = s.fg := rfl
@[simp] theorem dropEvent_wireOut (s : State) : (dropEvent s).wireOut = s.wireOut := rfl
@[simp] theorem dropEvent_wireIn (s : State) : (dropEvent s).wireIn = s.wireIn := rfl
@[simp] theorem dropEvent_pend (s : State) : (dropEvent s).pend = s.pend := rfl
@[simp] theorem dropEvent_hung (s : State) : (dropEvent s).hung = s.hung := rfl
@[simp] theorem dropEvent_script (s : State) : (dropEvent s).script = s.script.tail := rfl
@[simp] theorem dropEvent_answers (s : State) : (dropEvent s).answers = s.answers := rfl
@[simp] theorem dropEvent_bodies (s : State) : (dropEvent s).bodies = s.bodies := rfl
@[simp] theorem dropEvent_draws (s : State) : (dropEvent s).draws = s.draws := rfl
@[simp] theorem dropEvent_rxEpoch (s : State) : (dropEvent s).rxEpoch = s.rxEpoch := rfl
@[simp] theorem dropEvent_results (s : State) : (dropEvent s).results = s.results := rfl
@[simp] theorem dropEvent_invoked (s : State) : (dropEvent s).invoked = s.invoked := rfl
@[simp] theorem dropEvent_sent (s : State) : (dropEvent s).sent = s.sent := rfl

/-! ### tickStep -/

@[simp] theorem tickStep_cfg (s : State) : (tickStep s).cfg = s.cfg := rfl
@[simp] theorem tickStep_pw (s : State) : (tickStep s).pw = s.pw := rfl
@[simp] theorem tickStep_op (s : State) : (tickStep s).op = s.op := rfl
@[simp] theorem tickStep_rdy (s : State) : (tickStep s).rdy = s.rdy := rfl
@[simp] theorem tickStep_rxsz (s : State) : (tickStep s).rxsz = s.rxsz := rfl
@[simp] theorem tickStep_tx (s : State) : (tickStep s).tx = s.tx := rfl
@[simp] theorem tickStep_rx (s : State) : (tickStep s).rx = s.rx := rfl
@[simp] theorem tickStep_cbMatch (s : State) : (tickStep s).cbMatch = s.cbMatch := rfl
@[simp] theorem tickStep_cbProgress (s : State) : (tickStep s).cbProgress = s.cbProgress := rfl
@[simp] theorem tickStep_cbComplete (s : State) : (tickStep s).cbComplete = s.cbComplete := rfl
@[simp] theorem tickStep_rxArmed (s : State) : (tickStep s).rxArmed = s.rxArmed := rfl
@[simp] theorem tickStep_txBusy (s : State) : (tickStep s).txBusy = s.txBusy := rfl
@[simp] theorem tickStep_txLen (s : State) : (tickStep s).txLen = s.txLen := rfl
@[simp] theorem tickStep_tick (s : State) : (tickStep s).tick = (s.tick + 1) % 2 ^ s.cfg.tickBits := rfl
@[simp] theorem tickStep_fg (s : State) : (tickStep s).fg = { s.fg with sleep := s.fg.sleep - 1 } := rfl
@[simp] theorem tickStep_wireOut (s : State) : (tickStep s).wireOut = s.wireOut := rfl
@[simp] theorem tickStep_wireIn (s : State) : (tickStep s).wireIn = s.wireIn := rfl
@[simp] theorem tickStep_pend (s : State) : (tickStep s).pend = s.pend := rfl
@[simp] theorem tickStep_hung (s : State) : (tickStep s).hung = s.hung := rfl
@[simp] theorem tickStep_script (s : State) : (tickStep s).script = s.script := rfl
@[simp] theorem tickStep_answers (s : State) : (tickStep s).answers = s.answers := rfl
@[simp] theorem tickStep_bodies (s : State) : (tickStep s).bodies = s.bodies := rfl
@[simp] theorem tickStep_draws (s : State) : (tickStep s).draws = s.draws := rfl
@[simp] theorem tickStep_rxEpoch (s : State) : (tickStep s).rxEpoch = s.rxEpoch := rfl
@[simp] theorem tickStep_results (s : State) : (tickStep s).results = s.results := rfl
@[simp] theorem tickStep_invoked (s : State) : (tickStep s).invoked = s.invoked := rfl
@[simp] theorem tickStep_sent (s : State) : (tickStep s).sent = s.sent := rfl

/-! ### peerTake -/

@[simp] theorem peerTake_cfg (s : State) : (peerTake s).cfg = s.cfg := rfl
@[simp] theorem peerTake_pw (s : State) : (peerTake s).pw = s.pw := rfl
@[simp] theorem peerTake_op (s : State) : (peerTake s).op = s.op := rfl
@[simp] theorem peerTake_rdy (s : State) : (peerTake s).rdy = s.rdy := rfl
@[simp] theorem peerTake_rxsz (s : State) : (peerTake s).rxsz = s.rxsz := rfl
@[simp] theorem peerTake_tx (s : State) : (peerTake s).tx = s.tx := rfl
@[simp] theorem peerTake_rx (s : State) : (peerTake s).rx = s.rx := rfl
@[simp] theorem peerTake_cbMatch (s : State) : (peerTake s).cbMatch = s.cbMatch := rfl
@[simp] theorem peerTake_cbProgress (s : State) : (peerTake s).cbProgress = s.cbProgress := rfl
@[simp] theorem peerTake_cbComplete (s : State) : (peerTake s).cbComplete = s.cbComplete := rfl
@[simp] theorem peerTake_rxArmed (s : State) : (peerTake s).rxArmed = s.rxArmed := rfl
@[simp] theorem peerTake_txBusy (s : State) : (peerTake s).txBusy = s.txBusy := rfl
@[simp] theorem peerTake_txLen (s : State) : (peerTake s).txLen = s.txLen := rfl
@[simp] theorem peerTake_tick (s : State) : (peerTake s).tick = s.tick := rfl
@[simp] theorem peerTake_fg (s : State) : (peerTake s).fg = s.fg := rfl
@[simp] theorem peerTake_wireOut (s : State) : (peerTake s).wireOut = s.wireOut.tail := rfl
@[simp] theorem peerTake_wireIn (s : State) : (peerTake s).wireIn = s.wireIn := rfl
@[simp] theorem peerTake_pend (s : State) : (peerTake s).pend = s.pend := rfl
@[simp] theorem peerTake_hung (s : State) : (peerTake s).hung = s.hung := rfl
@[simp] theorem peerTake_script (s : State) : (peerTake s).script = s.script := rfl
@[simp] theorem peerTake_answers (s : State) : (peerTake s).answers = s.answers := rfl
@[simp] theorem peerTake_bodies (s : State) : (peerTake s).bodies = s.bodies := rfl
@[simp] theorem peerTake_draws (s : State) : (peerTake s).draws = s.draws := rfl
@[simp] theorem peerTake_rxEpoch (s : State) : (peerTake s).rxEpoch = s.rxEpoch := rfl
@[simp] theorem peerTake_results (s : State) : (peerTake s).results = s.results := rfl
@[simp] theorem peerTake_invoked (s : State) : (peerTake s).invoked = s.invoked := rfl
@[simp] theorem peerTake_sent (s : State) : (peerTake s).sent = s.sent := rfl

/-! ### peerSend -/

@[simp] theorem peerSend_cfg (b : Burst) (s : State) : (peerSend b s).cfg = s.cfg := rfl
@[simp] theorem peerSend_pw (b : Burst) (s : State) : (peerSend b s).pw = s.pw := rfl
@[simp] theorem peerSend_op (b : Burst) (s : State) : (peerSend b s).op = s.op := rfl
@[simp] theorem peerSend_rdy (b : Burst) (s : State) : (peerSend b s).rdy = s.rdy := rfl
@[simp] theorem peerSend_rxsz (b : Burst) (s : State) : (peerSend b s).rxsz = s.rxsz := rfl
@[simp] theorem peerSend_tx (b : Burst) (s : State) : (peerSend b s).tx = s.tx := rfl
@[simp] theorem peerSend_rx (b : Burst) (s : State) : (peerSend b s).rx = s.rx := rfl
@[simp] theorem peerSend_cbMatch (b : Burst) (s : State) : (peerSend b s).cbMatch = s.cbMatch := rfl
@[simp] theorem peerSend_cbProgress (b : Burst) (s : State) : (peerSend b s).cbProgress = s.cbProgress := rfl
@[simp] theorem peerSend_cbComplete (b : Burst) (s : State) : (peerSend b s).cbComplete = s.cbComplete := rfl
@[simp] theorem peerSend_rxArmed (b : Burst) (s : State) : (peerSend b s).rxArmed = s.rxArmed := rfl
@[simp] theorem peerSend_txBusy (b : Burst) (s : State) : (peerSend b s).txBusy = s.txBusy := rfl
@[simp] theorem peerSend_txLen (b : Burst) (s : State) : (peerSend b s).txLen = s.txLen := rfl
@[simp] theorem peerSend_tick (b : Burst) (s : State) : (peerSend b s).tick = s.tick := rfl
@[simp] theorem peerSend_fg (b : Burst) (s : State) : (peerSend b s).fg = s.fg := rfl
@[simp] theorem peerSend_wireOut (b : Burst) (s : State) : (peerSend b s).wireOut = s.wireOut := rfl
@[simp] theorem peerSend_wireIn (b : Burst) (s : State) : (peerSend b s).wireIn = putBurst s.wireIn b := rfl
@[simp] theorem peerSend_pend (b : Burst) (s : State) : (peerSend b s).pend = s.pend := rfl
@[simp] theorem peerSend_hung (b : Burst) (s : State) : (peerSend b s).hung = s.hung := rfl
@[simp] theorem peerSend_script (b : Burst) (s : State) : (peerSend b s).script = s.script := rfl
@[simp] theorem peerSend_answers (b : Burst) (s : State) : (peerSend b s).answers = s.answers := rfl
@[simp] theorem peerSend_bodies (b : Burst) (s : State) : (peerSend b s).bodies = s.bodies := rfl
@[simp] theorem peerSend_draws (b : Burst) (s : State) : (peerSend b s).draws = s.draws := rfl
@[simp] theorem peerSend_rxEpoch (b : Burst) (s : State) : (peerSend b s).rxEpoch = s.rxEpoch := rfl
@[simp] theorem peerSend_results (b : Burst) (s : State) : (peerSend b s).results = s.results := rfl
@[simp] theorem peerSend_invoked (b : Burst) (s : State) : (peerSend b s).invoked = s.invoked := rfl
@[simp] theorem peerSend_sent (b : Burst) (s : State) : (peerSend b s).sent = s.sent := rfl

end Sys2Proof.Machine
end

