-- ==== Sys2Proof/Laws/Ops.lean ====
section
/-! SUPPORT. For each shared operation one lemma that says everything it can do, for later proofs to cite. -/

namespace Sys2Proof.Machine

/-! ### Guards -/

/-- An operation of one step that answers a next state did so from `Idle`. -/
theorem whenIdle_next {s t : State} {k : Res} (h : whenIdle s k = .next t) : s.fg.phase = .idle ∧ k = .next t := by
  unfold whenIdle at h
  split at h
  · exact ⟨‹_›, h⟩
  · cases h

theorem whenIdle_of_idle {s : State} (k : Res) (h : s.fg.phase = .idle) : whenIdle s k = k := by simp [whenIdle, h]

/-- An operation of many steps that answers a next state was called from `Idle`, or it was in progress and took its
next step. -/
theorem operation_next {i : Instr} {call : State → State} {go : State → Res} {s t : State}
    (h : operation i call go s = .next t) :
    (s.fg.phase = .idle ∧ t = call s) ∨ (s.fg.phase ≠ .idle ∧ s.fg.instr = some i ∧ go s = .next t) := by
  unfold operation at h
  split at h
  · injection h with h
    exact .inl ⟨‹_›, h.symm⟩
  · split at h
    · exact .inr ⟨‹_›, ‹_›, h⟩
    · cases h

theorem operation_of_idle (i : Instr) (call : State → State) (go : State → Res) {s : State} (h : s.fg.phase = .idle) :
    operation i call go s = .next (call s) := by simp [operation, h]

theorem operation_in_progress {i : Instr} (call : State → State) (go : State → Res) {s : State}
    (h : s.fg.phase ≠ .idle) (hi : s.fg.instr = some i) : operation i call go s = go s := by simp [operation, h, hi]

theorem operation_overlapping (i : Instr) (call : State → State) (go : State → Res) {s : State}
    (h : s.fg.phase ≠ .idle) (hi : s.fg.instr ≠ some i) :
    operation i call go s = .refused .overlappingForeground := by simp [operation, h, hi]

/-- A parse that is gone on with was of bytes of `RX`. -/
theorem withParsed_next {n : Nat} {s t : State} {k : Verdict → Res} (h : withParsed n s k = .next t) :
    n ≤ s.cfg.rxCap ∧ k (parseFrame s.cfg.minAppLen (s.rxBytes 0 n)) = .next t := by
  unfold withParsed at h
  split at h
  · exact ⟨‹_›, h⟩
  · cases h

theorem withParsed_of_le {n : Nat} {s : State} (k : Verdict → Res) (h : n ≤ s.cfg.rxCap) :
    withParsed n s k = k (parseFrame s.cfg.minAppLen (s.rxBytes 0 n)) := by simp [withParsed, h]

/-- A decode that is gone on with had all the bytes it needs, all of them in `RX`. -/
theorem withPayload_next {need : Nat} {sp : Span} {s t : State} {k : List Byte → Res}
    (h : withPayload need sp s k = .next t) :
    need ≤ sp.len ∧ sp.off + need ≤ s.cfg.rxCap ∧ k (s.rxBytes sp.off need) = .next t := by
  unfold withPayload at h
  split at h
  · cases h
  · split at h
    · exact ⟨by omega, ‹_›, h⟩
    · cases h

theorem withPayload_of_le {need : Nat} {sp : Span} {s : State} (k : List Byte → Res) (h : need ≤ sp.len)
    (hr : sp.off + need ≤ s.cfg.rxCap) : withPayload need sp s k = k (s.rxBytes sp.off need) := by
  simp [withPayload, hr, Nat.not_lt.mpr h]

theorem withPayload_short {need : Nat} {sp : Span} {s : State} (k : List Byte → Res) (h : sp.len < need) :
    withPayload need sp s k = .refused .payloadTooShort := by simp [withPayload, h]

/-! ### Draws and the transport -/

/-- A draw of the transport's answer touches the list of answers or the draw counter, and nothing else. -/
theorem drawAnswer_spec (s : State) :
    (∃ r, s.answers = (drawAnswer s).1 :: r ∧ (drawAnswer s).2 = { s with answers := r }) ∨
    (s.answers = [] ∧ (drawAnswer s).1 = Config.freeBool s.draws ∧
      (drawAnswer s).2 = { s with draws := s.draws + 1 }) := by
  unfold drawAnswer
  split
  · rename_i a r h
    exact .inl ⟨r, h, rfl⟩
  · exact .inr ⟨‹_›, rfl, rfl⟩

/-- START_RECEIVE touches what the draw touches, and arms on true. -/
theorem startReceive_spec (s : State) :
    ∃ r d, (startReceive s).2 =
      { s with answers := r, draws := d, rxArmed := (startReceive s).1 || s.rxArmed } := by
  simp only [startReceive]
  rcases drawAnswer_spec s with ⟨r, _, h2⟩ | ⟨_, _, h2⟩ <;> cases (drawAnswer s).1 <;> simp only [h2] <;>
    exact ⟨_, _, rfl⟩

theorem startReceive_true {s : State} {r : List Bool} (h : s.answers = true :: r) :
    startReceive s = (true, { s with answers := r, rxArmed := true }) := by simp [startReceive, drawAnswer, h]

theorem startReceive_false {s : State} {r : List Bool} (h : s.answers = false :: r) :
    startReceive s = (false, { s with answers := r }) := by simp [startReceive, drawAnswer, h]

/-- TRANSMIT touches what the draw touches, and on true notes the span. -/
theorem transmit_spec (n : Nat) (s : State) :
    ∃ r d, (transmit n s).2 = { s with answers := r, draws := d, txBusy := (transmit n s).1 || s.txBusy,
                                       txLen := if (transmit n s).1 then n else s.txLen } := by
  simp only [transmit]
  rcases drawAnswer_spec s with ⟨r, _, h2⟩ | ⟨_, _, h2⟩ <;> cases (drawAnswer s).1 <;> simp only [h2] <;>
    exact ⟨_, _, rfl⟩

theorem transmit_true {n : Nat} {s : State} {r : List Bool} (h : s.answers = true :: r) :
    transmit n s = (true, { s with answers := r, txBusy := true, txLen := n }) := by simp [transmit, drawAnswer, h]

theorem transmit_false {n : Nat} {s : State} {r : List Bool} (h : s.answers = false :: r) :
    transmit n s = (false, { s with answers := r }) := by simp [transmit, drawAnswer, h]

/-- A free `MatchResult` touches the draw counter and nothing else. -/
theorem drawMatch_spec (s : State) :
    drawMatch s = (⟨Config.freeBool s.draws, Config.freeHalf (s.draws + 1), Config.freeHalf (s.draws + 2)⟩,
      { s with draws := s.draws + 3 }) := rfl

/-- A free `SystemPolicy` touches the draw counter and nothing else. -/
theorem drawPolicy_spec (s : State) :
    drawPolicy s = (⟨Config.freeBool s.draws, Config.freeBool (s.draws + 1), Config.freeBool (s.draws + 2)⟩,
      { s with draws := s.draws + 3 }) := rfl

/-- The success flag: decided for 0 and 1, and otherwise one draw. -/
theorem flagOf_spec (b : Byte) (s : State) :
    (b = 0 ∧ flagOf b s = (false, s)) ∨ (b = 1 ∧ flagOf b s = (true, s)) ∨
    (b ≠ 0 ∧ b ≠ 1 ∧ flagOf b s = (Config.freeBool s.draws, { s with draws := s.draws + 1 })) := by
  unfold flagOf
  split
  · exact .inl ⟨‹_›, rfl⟩
  · split
    · exact .inr (.inl ⟨‹_›, rfl⟩)
    · exact .inr (.inr ⟨‹_›, ‹_›, rfl⟩)

/-- Decoding a match touches at most the draw counter. -/
theorem decodeMatch_frame (off : Nat) (p : List Byte) (s : State) :
    ∃ d, (decodeMatch off p s).2 = { s with draws := d } := by
  rcases flagOf_spec (byteAt p off) s with ⟨_, h⟩ | ⟨_, h⟩ | ⟨_, _, h⟩ <;>
    exact ⟨_, by simp only [decodeMatch, h]; rfl⟩

/-! ### Building and sending -/

/-- The enrollment status decoded from a payload in `RX` (R234). -/
theorem decodeEnroll_rx (s : State) (o : Nat) :
    decodeEnroll (s.rxBytes o 4) = ⟨decide (s.rxByte o = 0xFF), s.rxByte o, s.rxByte (o + 3),
      be16 (s.rxByte (o + 1)) (s.rxByte (o + 2)), 0⟩ := by
  have h : ∀ j, j < 4 → byteAt (s.rxBytes o 4) j = s.rxByte (o + j) := fun j hj => byteAt_rxBytes s o hj
  simp only [decodeEnroll, h 0 (by decide), h 1 (by decide), h 2 (by decide), h 3 (by decide), Nat.add_zero]

/-- BUILD_FRAME's precondition as two inequalities. -/
theorem fitsTx_iff (s : State) (p : List Byte) :
    fitsTx s p = true ↔ 18 + p.length ≤ s.cfg.txCap ∧ 7 + p.length ≤ 65535 := by
  simp [fitsTx]

/-- BUILD_FRAME writes `TX` and nothing else. -/
theorem putFrame_frame (cmd : Half) (p : List Byte) (s : State) :
    ∃ m, m = (putFrame cmd p s).tx ∧ putFrame cmd p s = { s with tx := m } := ⟨_, rfl, by simp only [putFrame]⟩

/-- After BUILD_FRAME the frame is read back from `TX`, in any state with that `TX`. -/
theorem txBytes_of_putFrame {cmd : Half} {p : List Byte} {s t : State} (h : t.tx = (putFrame cmd p s).tx) :
    t.txBytes 0 (18 + p.length) = outFrame s.pw cmd p := by
  rw [putFrame_tx] at h
  exact State.txBytes_of_write h (outFrame_length _ _ _).symm

/-- BUILD_FRAME leaves every byte past its frame. -/
theorem txByte_of_putFrame {cmd : Half} {p : List Byte} {s t : State} (h : t.tx = (putFrame cmd p s).tx) {a : Nat}
    (ha : 18 + p.length ≤ a) : t.txByte a = s.txByte a := by
  rw [putFrame_tx] at h
  exact State.txByte_past_write h (by rw [outFrame_length]; exact ha)

/-- A request that goes on was within the precondition; the frame is in `TX`, and the transport's answer decides. -/
theorem sendRequest_next {good bad : State → State} {s t : State} (h : sendRequest good bad s = .next t) :
    fitsTx s s.fg.payload = true ∧ ∃ (a : Bool) (r : List Bool) (d : Nat) (m : Memory),
      m = (putFrame s.fg.cmd s.fg.payload s).tx ∧
      t = if a then good { s with tx := m, answers := r, draws := d, txBusy := true,
                                  txLen := 18 + s.fg.payload.length }
        else bad { s with tx := m, answers := r, draws := d } := by
  unfold sendRequest at h
  split at h
  · rename_i hf
    injection h with h
    obtain ⟨r, d, hs⟩ := transmit_spec (18 + s.fg.payload.length) (putFrame s.fg.cmd s.fg.payload s)
    refine ⟨hf, (transmit (18 + s.fg.payload.length) (putFrame s.fg.cmd s.fg.payload s)).1, r, d, _, rfl, ?_⟩
    rw [← h, hs]
    generalize (transmit (18 + s.fg.payload.length) (putFrame s.fg.cmd s.fg.payload s)).1 = a
    cases a <;> simp
  · cases h

theorem sendRequest_true {good bad : State → State} {s : State} {r : List Bool} (hf : fitsTx s s.fg.payload = true)
    (h : s.answers = true :: r) : sendRequest good bad s = .next (good
      { putFrame s.fg.cmd s.fg.payload s with answers := r, txBusy := true, txLen := 18 + s.fg.payload.length }) := by
  have hp : (putFrame s.fg.cmd s.fg.payload s).answers = true :: r := h
  simp [sendRequest, hf, transmit_true hp]

theorem sendRequest_false {good bad : State → State} {s : State} {r : List Bool} (hf : fitsTx s s.fg.payload = true)
    (h : s.answers = false :: r) : sendRequest good bad s = .next (bad
      { putFrame s.fg.cmd s.fg.payload s with answers := r }) := by
  have hp : (putFrame s.fg.cmd s.fg.payload s).answers = false :: r := h
  simp [sendRequest, hf, transmit_false hp]

/-- A request with its answer given: what the transport's answer decides about is one state, whose `TX` holds the frame
and is otherwise as before, and which differs from the state before in nothing else but the answer's own effect. -/
theorem sendRequest_given {good bad : State → State} {s : State} {a : Bool} {r : List Bool}
    (hf : fitsTx s s.fg.payload = true) (h : s.answers = a :: r) :
    ∃ m : Memory,
      sendRequest good bad s = .next
        (if a then good { s with tx := m, answers := r, txBusy := true, txLen := 18 + s.fg.payload.length }
          else bad { s with tx := m, answers := r }) ∧
      ∀ t : State, t.tx = m → t.txBytes 0 (18 + s.fg.payload.length) = outFrame s.pw s.fg.cmd s.fg.payload ∧
        ∀ b, 18 + s.fg.payload.length ≤ b → t.txByte b = s.txByte b := by
  refine ⟨(putFrame s.fg.cmd s.fg.payload s).tx, ?_, fun t ht =>
    ⟨txBytes_of_putFrame ht, fun b hb => txByte_of_putFrame ht hb⟩⟩
  cases a
  · rw [sendRequest_false hf h]
    simp only [putFrame, Bool.false_eq_true, if_false]
  · rw [sendRequest_true hf h]
    simp only [putFrame, if_true]

/-! ### The callback operand -/

/-- Invoking the operand callback touches the invocation list and nothing else. -/
theorem invokeOperand_spec (cb : Callback) (st : EnrollStatus) (s : State) :
    ∃ v, invokeOperand cb st s = { s with invoked := v } := by
  cases cb <;> exact ⟨_, rfl⟩

/-! ### The engines -/

/-- Everything the receive engine can do (R150). -/
theorem rxeStep_cases (s : State) :
    (s.wireIn = [] ∧ rxeStep s = s) ∨
    (∃ b rest, s.wireIn = b :: rest ∧ s.rxArmed = false ∧ rxeStep s = { s with wireIn := rest }) ∨
    (∃ b rest, s.wireIn = b :: rest ∧ s.rxArmed = true ∧ rxeStep s =
      { s with wireIn := rest, rx := Memory.writeBytes s.rx 0 (b.take (min b.length s.cfg.rxCap)), rxArmed := false,
               pend := { s.pend with rx := some (BitVec.ofNat 16 (min b.length s.cfg.rxCap)) } }) := by
  unfold rxeStep
  cases h : s.wireIn with
  | nil => exact .inl ⟨rfl, rfl⟩
  | cons b rest =>
    cases ha : s.rxArmed with
    | false => exact .inr (.inl ⟨b, rest, rfl, rfl, by simp⟩)
    | true => exact .inr (.inr ⟨b, rest, rfl, rfl, by simp⟩)

/-- Everything the transmit engine can do (R152). -/
theorem txeStep_cases (s : State) :
    (s.txBusy = false ∧ txeStep s = s) ∨
    (s.txBusy = true ∧ txeStep s = { s with wireOut := putBurst s.wireOut (s.txBytes 0 s.txLen), txBusy := false,
                                            pend := { s.pend with tx := true },
                                            sent := putBurst s.sent (s.txBytes 0 s.txLen) }) := by
  unfold txeStep
  cases h : s.txBusy with
  | false => exact .inl ⟨rfl, by simp⟩
  | true => exact .inr ⟨rfl, by simp⟩

/-- A queue of bursts stays one of nonempty bursts. -/
theorem putBurst_nonempty {q : List Burst} (b : Burst) (h : ∀ x ∈ q, x ≠ []) : ∀ x ∈ putBurst q b, x ≠ [] := by
  unfold putBurst
  split
  · exact h
  · rename_i hb
    intro x hx
    rcases List.mem_append.mp hx with hx | hx
    · exact h x hx
    · rw [List.mem_singleton.mp hx]
      exact hb

end Sys2Proof.Machine
end

