-- ==== Sys2Proof/Laws/Callbacks.lean ====
section
/-! SUPPORT. What a registered callback, and the continuation around it, can do to the state, said once; and what they do
when the callback calls nothing or one operation. -/

namespace Sys2Proof.Machine

/-! ### Calls from inside a callback -/

/-- An operation that uses the line is answered `Busy` (R260 d): a result, and at most free values drawn for the
out-value. -/
theorem callFromCallback_busy {i : Instr} (h : usesLine i = true) (s : State) :
    ∃ o d, callFromCallback i s = .next (answerBusy o { s with draws := d }) := by
  cases i <;> first | exact ⟨_, _, rfl⟩ | cases h

/-- An operation that uses the line does not block the callback that calls it. -/
theorem blocks_of_usesLine {i : Instr} (h : usesLine i = true) : blocks i = false := by
  cases i <;> first | rfl | cases h

/-! ### Invocations -/

theorem invokeRegistered_unset (role : CallbackRole) (arg : CallbackArg) (k : State → Res) (s : State) :
    invokeRegistered role none arg k s = k s := rfl

/-- The next callback, whatever it does. -/
theorem invokeRegistered_body {role : CallbackRole} {h : Handle} {arg : CallbackArg} {k : State → Res} {s : State}
    {b : CallbackBody} {q : List CallbackBody} (hq : s.bodies = b :: q) :
    invokeRegistered role (some h) arg k s = runBody b k { recordCall role h arg s with bodies := q } := by
  simp only [invokeRegistered, hq]

/-- A callback that calls nothing and returns. -/
theorem invokeRegistered_returns {role : CallbackRole} {h : Handle} {arg : CallbackArg} {k : State → Res} {s : State}
    {q : List CallbackBody} (hq : s.bodies = ⟨[], true⟩ :: q) :
    invokeRegistered role (some h) arg k s =
      k { s with invoked := s.invoked ++ [⟨role, h, arg⟩], bodies := q } := invokeRegistered_body hq

/-- A callback that calls nothing and does not return leaves its invocation and stops the two contexts (R296). -/
theorem invokeRegistered_hangs {role : CallbackRole} {h : Handle} {arg : CallbackArg} {k : State → Res} {s : State}
    {q : List CallbackBody} (hq : s.bodies = ⟨[], false⟩ :: q) :
    invokeRegistered role (some h) arg k s =
      .next { s with invoked := s.invoked ++ [⟨role, h, arg⟩], bodies := q, hung := true } := invokeRegistered_body hq

/-- A callback that calls one operation, which does not block, and returns. -/
theorem runBody_one {i : Instr} {k : State → Res} {s t : State} (hb : blocks i = false)
    (h : callFromCallback i s = .next t) : runBody ⟨[i], true⟩ k s = k t := by
  simp only [runBody, runCalls, hb, h, Bool.false_eq_true, if_false, if_true]

/-- A callback that calls one operation that uses the line and returns: the call is answered `Busy` (R260 d). -/
theorem invokeRegistered_busy {i : Instr} (hu : usesLine i = true) {role : CallbackRole} {h : Handle} {arg : CallbackArg}
    {k : State → Res} {s : State} {q : List CallbackBody} (hq : s.bodies = ⟨[i], true⟩ :: q) :
    ∃ o d, invokeRegistered role (some h) arg k s =
      k (answerBusy o { recordCall role h arg s with bodies := q, draws := d }) := by
  obtain ⟨o, d, e⟩ := callFromCallback_busy hu { recordCall role h arg s with bodies := q }
  exact ⟨o, d, by rw [invokeRegistered_body hq, runBody_one (blocks_of_usesLine hu) e]⟩

/-- A callback that calls nothing and does not return, or whose first call blocks, stops the two contexts. -/
theorem runBody_hangs {b : CallbackBody} (h : b = ⟨[], false⟩ ∨ ∃ is d, 0 < d ∧ b.calls = .delayMs d :: is)
    (k : State → Res) (s : State) : runBody b k s = .next (hang s) := by
  rcases h with rfl | ⟨is, d, hd, e⟩
  · rfl
  · simp only [runBody, e, runCalls, blocks, hd, decide_true, if_true]

/-! ### Everything a continuation can touch -/

/-- What a continuation leaves of a state, `A` being that its callbacks may abort a receive: what is not named in
`rest` is as before, a session can only end, `TX` keeps its form, `RX` changes by an abort alone, and nothing unsound is
returned. -/
structure Touched (A : Prop) (s u : State) : Prop where
  rest : u = { s with
    op := u.op, tx := u.tx, rx := u.rx, rxEpoch := u.rxEpoch, cbMatch := u.cbMatch, cbProgress := u.cbProgress,
    cbComplete := u.cbComplete, rxArmed := u.rxArmed, txBusy := u.txBusy, txLen := u.txLen, hung := u.hung,
    answers := u.answers, bodies := u.bodies, draws := u.draws, results := u.results, invoked := u.invoked }
  op : u.op = s.op ∨ u.op = .none
  tx : Memory.wf s.tx = true ∧ Memory.below s.cfg.txCap s.tx = true →
    Memory.wf u.tx = true ∧ Memory.below s.cfg.txCap u.tx = true
  rx : (u.rx = s.rx ∧ u.rxEpoch = s.rxEpoch) ∨ (u.rx = [] ∧ A)
  txLen : s.txLen ≤ s.cfg.txCap → u.txLen ≤ s.cfg.txCap
  results : ∀ r ∈ u.results, r ∈ s.results ∨ ∀ c, r.result = some c → c.sound = true
  bodies : ∀ b ∈ u.bodies, b ∈ s.bodies

theorem Touched.cfg_eq {A : Prop} {s u : State} (h : Touched A s u) : u.cfg = s.cfg := by rw [h.rest]

/-- The continuation is done. -/
theorem Touched.same (A : Prop) (s : State) : Touched A s s :=
  ⟨rfl, .inl rfl, id, .inl ⟨rfl, rfl⟩, id, fun _ h => .inl h, fun _ h => h⟩

/-- One thing after another. -/
theorem Touched.trans {A B : Prop} {s t u : State} (h : Touched A s t) (g : Touched B t u) : Touched (A ∨ B) s u where
  rest := by
    rw [g.rest]
    conv => lhs; rw [h.rest]
  op := by
    rcases g.op with e | e
    · exact e ▸ h.op
    · exact .inr e
  tx := fun hs => by
    have := g.tx
    rw [h.cfg_eq] at this
    exact this (h.tx hs)
  rx := by
    rcases g.rx with ⟨e1, e2⟩ | ⟨e, a⟩
    · rw [e1, e2]
      exact h.rx.imp id (fun x => ⟨x.1, .inl x.2⟩)
    · exact .inr ⟨e, .inr a⟩
  txLen := fun hs => by
    have := g.txLen
    rw [h.cfg_eq] at this
    exact this (h.txLen hs)
  results := fun r hr => (g.results r hr).elim (h.results r) .inr
  bodies := fun b hb => h.bodies b (g.bodies b hb)

theorem Touched.mono {A B : Prop} {s u : State} (h : Touched A s u) (f : A → B) : Touched B s u :=
  { h with rx := h.rx.imp id (fun x => ⟨x.1, f x.2⟩) }

/-- A change of registers, lists and counters: no buffer, no session, no returned result. -/
theorem Touched.registers (A : Prop) (s : State) (a b c : Callback) (ra tb g : Bool) (r : List Bool) (d : Nat)
    (v : List Invocation) : Touched A s { s with
      cbMatch := a, cbProgress := b, cbComplete := c, rxArmed := ra, txBusy := tb, hung := g, answers := r, draws := d,
      invoked := v } :=
  ⟨rfl, .inl rfl, id, .inl ⟨rfl, rfl⟩, id, fun _ h => .inl h, fun _ h => h⟩

/-- The end of the session. -/
theorem Touched.ended (A : Prop) (s : State) : Touched A s (endSession s) :=
  ⟨rfl, .inr rfl, id, .inl ⟨rfl, rfl⟩, id, fun _ h => .inl h, fun _ h => h⟩

/-- A value returned without a `CommandResult`. -/
theorem Touched.answered (A : Prop) (o : OutValue) (s : State) : Touched A s (answerCaller o s) :=
  ⟨rfl, .inl rfl, id, .inl ⟨rfl, rfl⟩, id, fun r hr => (List.mem_append.mp hr).imp id
    (fun h c hc => by rw [List.mem_singleton.mp h] at hc; cases hc), fun _ h => h⟩

/-- `Busy` returned. -/
theorem Touched.busy (A : Prop) (o : OutValue) (s : State) : Touched A s (answerBusy o s) :=
  ⟨rfl, .inl rfl, id, .inl ⟨rfl, rfl⟩, id, fun r hr => (List.mem_append.mp hr).imp id
    (fun h c hc => by rw [List.mem_singleton.mp h] at hc; injection hc with hc; rw [← hc]; decide), fun _ h => h⟩

/-- An abort. -/
theorem Touched.aborted {A : Prop} (a : A) (s : State) : Touched A s (abortReceive s) :=
  ⟨rfl, .inl rfl, id, .inr ⟨rfl, a⟩, id, fun _ h => .inl h, fun _ h => h⟩

/-- A frame built. -/
theorem Touched.built (A : Prop) {s : State} {c : Half} {p : List Byte} (hf : fitsTx s p = true) :
    Touched A s (putFrame c p s) where
  rest := by simp only [putFrame]
  op := .inl rfl
  tx := fun h => by
    rw [putFrame_tx]
    have := ((fitsTx_iff _ _).mp hf).1
    exact ⟨Memory.wf_writeBytes _ _ _ h.1, Memory.below_writeBytes _ _ (by simp; omega) h.2⟩
  rx := .inl ⟨rfl, rfl⟩
  txLen := id
  results := fun _ h => .inl h
  bodies := fun _ h => h

/-- START_RECEIVE. -/
theorem Touched.armed (A : Prop) (s : State) : Touched A s (startReceive s).2 := by
  obtain ⟨r, d, e⟩ := startReceive_spec s
  rw [e]
  exact .registers A s s.cbMatch s.cbProgress s.cbComplete _ s.txBusy s.hung r d s.invoked

/-- TRANSMIT. -/
theorem Touched.handed (A : Prop) {s : State} {n : Nat} (hn : n ≤ s.cfg.txCap) : Touched A s (transmit n s).2 := by
  obtain ⟨r, d, e⟩ := transmit_spec n s
  rw [e]
  refine ⟨rfl, .inl rfl, id, .inl ⟨rfl, rfl⟩, fun h => ?_, fun _ h => .inl h, fun _ h => h⟩
  dsimp only
  split
  · exact hn
  · exact h

/-- Everything a call from inside a callback can do. -/
theorem callFromCallback_touched {i : Instr} {s t : State} (h : callFromCallback i s = .next t) :
    Touched (i = .abortReceive) s t := by
  by_cases hu : usesLine i = true
  · obtain ⟨o, d, e⟩ := callFromCallback_busy hu s
    rw [e] at h
    injection h with h
    rw [← h]
    exact ((Touched.registers (i = .abortReceive) s s.cbMatch s.cbProgress s.cbComplete s.rxArmed s.txBusy s.hung
      s.answers d s.invoked).trans (.busy _ o _)).mono (or_self_iff.mp ·)
  cases i
  case buildFrame c p =>
    simp only [callFromCallback, runBuildFrame] at h
    split at h
    · injection h with h
      rw [← h]
      exact ((Touched.built (c := c) (Instr.buildFrame c p = .abortReceive) ‹_›).trans (.answered _ _ _)).mono
        (or_self_iff.mp ·)
    · cases h
  case parseFrame =>
    have h : runParseFrame s = .next t := h
    obtain ⟨-, h⟩ := withParsed_next h
    injection h with h
    exact h ▸ .answered _ _ _
  case startReceive =>
    injection h with h
    rw [← h]
    exact ((Touched.armed (Instr.startReceive = .abortReceive) s).trans (.answered _ _ _)).mono (or_self_iff.mp ·)
  case transmit n =>
    simp only [callFromCallback, runTransmit] at h
    split at h
    · injection h with h
      rw [← h]
      exact ((Touched.handed (Instr.transmit n = .abortReceive) ‹_›).trans (.answered _ _ _)).mono
        (or_self_iff.mp ·)
    · cases h
  case abortReceive =>
    injection h with h
    rw [← h]
    exact ((Touched.aborted (A := Instr.abortReceive = .abortReceive) rfl s).trans
      (.answered (Instr.abortReceive = .abortReceive) _ _)).mono (or_self_iff.mp ·)
  case setMatchCallback cb =>
    injection h with h
    rw [← h]
    exact ((Touched.registers (Instr.setMatchCallback cb = .abortReceive) s cb s.cbProgress s.cbComplete s.rxArmed
      s.txBusy s.hung s.answers s.draws s.invoked).trans (.answered _ _ _)).mono (or_self_iff.mp ·)
  case setEnrollProgressCallback cb =>
    injection h with h
    rw [← h]
    exact ((Touched.registers (Instr.setEnrollProgressCallback cb = .abortReceive) s s.cbMatch cb s.cbComplete s.rxArmed
      s.txBusy s.hung s.answers s.draws s.invoked).trans (.answered _ _ _)).mono (or_self_iff.mp ·)
  case setEnrollCompleteCallback cb =>
    injection h with h
    rw [← h]
    exact ((Touched.registers (Instr.setEnrollCompleteCallback cb = .abortReceive) s s.cbMatch s.cbProgress cb s.rxArmed
      s.txBusy s.hung s.answers s.draws s.invoked).trans (.answered _ _ _)).mono (or_self_iff.mp ·)
  case onUartReceive => cases h
  case onTransmitComplete | response =>
    injection h with h
    exact h ▸ .same _ _
  case checksum | getTick | delayMs =>
    injection h with h
    exact h ▸ .answered _ _ _
  case setPassword v fl => cases fl <;> exact absurd rfl hu
  all_goals exact absurd rfl hu

/-- Everything the calls of a callback can do before what follows them. -/
theorem runCalls_touched {is : List Instr} {k : State → Res} {B : Prop} {s u : State} {q : List CallbackBody}
    (hq : ∀ b ∈ s.bodies, b ∈ q)
    (hk : ∀ t v, (∀ b ∈ t.bodies, b ∈ q) → k t = .next v → Touched B t v)
    (h : runCalls is k s = .next u) : Touched (.abortReceive ∈ is ∨ B) s u := by
  induction is generalizing s with
  | nil => exact (hk s u hq h).mono .inr
  | cons i is ih =>
    simp only [runCalls] at h
    split at h
    · injection h with h
      rw [← h]
      exact .registers _ s s.cbMatch s.cbProgress s.cbComplete s.rxArmed s.txBusy true s.answers s.draws s.invoked
    · split at h
      · rename_i t ht
        have h1 := callFromCallback_touched ht
        refine (h1.trans (ih (fun b hb => hq b (h1.bodies b hb)) h)).mono ?_
        rintro (e | e | e)
        · exact .inl (e ▸ List.mem_cons_self ..)
        · exact .inl (List.mem_cons_of_mem _ e)
        · exact .inr e
      · cases h
      · cases h

/-- That some coming callback aborts a receive. -/
def mayAbort (s : State) : Prop := ∃ b ∈ s.bodies, Instr.abortReceive ∈ b.calls

/-- Everything the invocation of a registered callback, and what follows it, can do. -/
theorem invokeRegistered_touched {role : CallbackRole} {cb : Callback} {arg : CallbackArg} {k : State → Res}
    {s u : State} (hk : ∀ t v, k t = .next v → Touched (mayAbort t) t v)
    (h : invokeRegistered role cb arg k s = .next u) : Touched (mayAbort s) s u := by
  cases cb with
  | none => exact hk s u h
  | some hd =>
    simp only [invokeRegistered] at h
    split at h
    · rename_i b r hb
      have first : Touched (mayAbort s) s { recordCall role hd arg s with bodies := r } :=
        ⟨rfl, .inl rfl, id, .inl ⟨rfl, rfl⟩, id, fun _ h => .inl h, fun b hb' => by rw [hb]; exact .tail _ hb'⟩
      refine (first.trans (runCalls_touched (q := r) (B := mayAbort s) (fun _ h => h) ?_ h)).mono ?_
      · intro t v ht hv
        split at hv
        · refine (hk t v hv).mono ?_
          rintro ⟨c, hc, ha⟩
          exact ⟨c, by rw [hb]; exact .tail _ (ht c hc), ha⟩
        · injection hv with hv
          rw [← hv]
          exact .registers _ t t.cbMatch t.cbProgress t.cbComplete t.rxArmed t.txBusy true t.answers t.draws t.invoked
      · rintro (e | e | e)
        · exact e
        · exact ⟨b, by rw [hb]; exact .head _, e⟩
        · exact e
    · have first : Touched (mayAbort s) s (recordCall role hd arg s) :=
        .registers _ s s.cbMatch s.cbProgress s.cbComplete s.rxArmed s.txBusy s.hung s.answers s.draws _
      exact (first.trans (hk _ u h)).mono (Or.elim · id id)

/-! ### The continuations -/

theorem finishSession_touched {A : Prop} {s u : State} (h : finishSession s = .next u) : Touched A s u := by
  injection h with h
  exact h ▸ .ended A s

theorem matchReport_touched {m : MatchResult} {s u : State} (h : matchReport m s = .next u) :
    Touched (mayAbort s) s u := invokeRegistered_touched (fun _ _ => finishSession_touched) h

theorem enrollAdvance_touched {st : EnrollStatus} {s u : State} (h : enrollAdvance st s = .next u) :
    Touched (mayAbort s) s u := by
  unfold enrollAdvance at h
  split at h
  · exact invokeRegistered_touched (fun _ _ => finishSession_touched) h
  · injection h with h
    rw [← h, rearm]
    split
    · exact .armed _ s
    · exact ((Touched.armed (mayAbort s) s).trans (.ended _ _)).mono (or_self_iff.mp ·)

theorem enrollReport_touched {st : EnrollStatus} {s u : State} (h : enrollReport st s = .next u) :
    Touched (mayAbort s) s u := invokeRegistered_touched (fun _ _ => enrollAdvance_touched) h

end Sys2Proof.Machine
end

