-- ==== Sys2Proof/Laws/Machine.lean ====
section
/-! SUPPORT. What `exec` and `fetch` are for the instructions of one kind, so that later proofs treat a kind at once and
unfold no meaning. -/

namespace Sys2Proof.Machine

/-! ### Kinds of instruction -/

/-- What a synchronous request does at `Done`: the out-value and the state it is returned from, or a stop. -/
def finishOf : Instr → State → Res
  | .sendAndAwait _ _ _ => fun s => .next (returnToCaller (.payload s.fg.span) s)
  | .isFingerPressed | .cmdFingerStatus =>
    finishDecode 1 (fun p s => (.pressed (decodePressed p), s)) freePressed
  | .matchFinger | .cmdMatchSync =>
    finishDecode 6 (fun p s => (.matched (decodeMatch 1 p s).1, (decodeMatch 1 p s).2)) freeMatched
  | .getFingerprintCount | .cmdCount =>
    finishDecode 2 (fun p s => (.count (decodeCount p), s)) freeCount
  | .getSystemPolicy | .cmdGetPolicy =>
    finishDecode 4 (fun p s => (.policy (decodePolicy p), s)) freePolicy
  | .setPassword v _ | .cmdSetPasswordFlash v | .cmdSetPasswordTemp v => finishPassword v
  | _ => finishPlain

/-- Every synchronous request is one exchange with its code, its payload, its window and its end. -/
theorem exec_request {i : Instr} {s : State} {cmd : Half} {p : List Byte}
    (h : exchangeRequest s.cfg i = some (cmd, p)) :
    exec i s = exchange i cmd p (exchangeWindow i) (finishOf i) s := by
  cases i
  case setPassword v fl => cases fl <;> (injection h with h; injection h with h1 h2; subst h1; subst h2; rfl)
  all_goals first
    | (injection h with h; injection h with h1 h2; subst h1; subst h2; rfl)
    | injection h

/-- Every synchronous enrollment is one enrollment loop with its operands. -/
theorem exec_enrollment {i : Instr} {f : Half} {n : Byte} {cb : Callback} (h : enrollOperands i = some (f, n, cb))
    (s : State) : exec i s = enrollment i f n cb s := by
  cases i <;> first
    | (injection h with h; injection h with h1 h; injection h with h2 h3; subst h1; subst h2; subst h3; rfl)
    | injection h

/-- Every START is one start sequence with its session and its request. -/
theorem exec_start {i : Instr} {x : Session} {cmd : Half} {p : List Byte} (h : startRequest i = some (x, cmd, p))
    (s : State) : exec i s = operation i (beginCall i cmd p) (startStep x) s := by
  cases i <;> first
    | (injection h with h; injection h with h1 h; injection h with h2 h3; subst h1; subst h2; subst h3; rfl)
    | injection h

/-- Whether an instruction is a synchronous request does not depend on the parameters. -/
theorem exchangeRequest_isSome (c d : Config) (i : Instr) :
    (exchangeRequest c i).isSome = (exchangeRequest d i).isSome := by
  cases i <;> first | rfl | (rename_i v fl; cases fl <;> rfl)

/-- A synchronous operation is a request or the enrollment. -/
theorem isSync_cases {i : Instr} (h : isSync i = true) (c : Config) :
    (∃ cmd p, exchangeRequest c i = some (cmd, p)) ∨ ∃ f n cb, enrollOperands i = some (f, n, cb) := by
  rcases Bool.or_eq_true _ _ ▸ h with h | h
  · rw [exchangeRequest_isSome _ c] at h
    obtain ⟨⟨cmd, p⟩, h⟩ := Option.isSome_iff_exists.mp h
    exact .inl ⟨cmd, p, h⟩
  · obtain ⟨⟨f, n, cb⟩, h⟩ := Option.isSome_iff_exists.mp h
    exact .inr ⟨f, n, cb, h⟩

/-! ### The steps of an operation in progress -/

/-- A synchronous request in progress takes the next numbered step of its exchange. -/
theorem exec_request_step {i : Instr} {s : State} (h : (exchangeRequest s.cfg i).isSome = true)
    (hp : s.fg.phase ≠ .idle) (hi : s.fg.instr = some i) :
    exec i s = exchangeStep (exchangeWindow i) (finishOf i) s := by
  obtain ⟨⟨cmd, p⟩, h⟩ := Option.isSome_iff_exists.mp h
  rw [exec_request h]
  exact operation_in_progress _ _ hp hi

/-- An enrollment in progress takes the next numbered step of its loop. -/
theorem exec_enrollment_step {i : Instr} {f : Half} {n : Byte} {cb : Callback} {s : State}
    (h : enrollOperands i = some (f, n, cb)) (hp : s.fg.phase ≠ .idle) (hi : s.fg.instr = some i) :
    exec i s = enrollStep cb s := by
  rw [exec_enrollment h]
  exact operation_in_progress _ _ hp hi

/-- A START in progress takes its next step. -/
theorem exec_start_step {i : Instr} {x : Session} {cmd : Half} {p : List Byte} {s : State}
    (h : startRequest i = some (x, cmd, p)) (hp : s.fg.phase ≠ .idle) (hi : s.fg.instr = some i) :
    exec i s = startStep x s := by
  rw [exec_start h]
  exact operation_in_progress _ _ hp hi

/-- At `Done` a synchronous request ends in its own way. -/
theorem exec_request_done {i : Instr} {s : State} (h : (exchangeRequest s.cfg i).isSome = true)
    (hp : s.fg.phase = .done) (hi : s.fg.instr = some i) : exec i s = finishOf i s := by
  rw [exec_request_step h (by rw [hp]; decide) hi]
  simp only [exchangeStep, hp]

/-- A run of one operation peeled by its first step. -/
theorem execTimes_of_next {i : Instr} {n : Nat} {s t : State} (h : exec i s = .next t) :
    execTimes i (n + 1) s = execTimes i n t := by simp only [execTimes, h]

/-! ### The notification -/

/-- The transport's notification runs the handler. -/
theorem exec_notification {s : State} {k : Half} (h : s.pend.rx = some k) (hk : k.toNat ≤ s.cfg.rxCap) :
    exec (.onUartReceive k) s = handleReceive k s := by
  simp only [exec, execOnUartReceive, h, hk, if_true]

/-- During a session an invalid frame ends it. -/
theorem exec_notification_invalid {s : State} {k : Half} (ho : s.op ≠ .none) (h : s.pend.rx = some k)
    (hk : k.toNat ≤ s.cfg.rxCap) (hv : parseFrame s.cfg.minAppLen (s.rxBytes 0 k.toNat) = .invalid) :
    exec (.onUartReceive k) s = .next (endSession (recordReceive k s)) := by
  have hv' : parseFrame (recordReceive k s).cfg.minAppLen ((recordReceive k s).rxBytes 0 k.toNat) = .invalid := hv
  rw [exec_notification h hk, handleReceive, if_neg ho, continuation, recordReceive_rxsz,
    withParsed_of_le (s := recordReceive k s) _ hk]
  simp only [hv']

/-- During a session a valid frame goes to the continuation of the session. -/
theorem exec_notification_valid {s : State} {k ack : Half} {err : Word} {sp : Span} (ho : s.op ≠ .none)
    (h : s.pend.rx = some k) (hk : k.toNat ≤ s.cfg.rxCap)
    (hv : parseFrame s.cfg.minAppLen (s.rxBytes 0 k.toNat) = .valid ack err sp) :
    exec (.onUartReceive k) s =
      if s.op = .asyncMatch then matchContinuation err sp (recordReceive k s)
      else enrollContinuation err sp (recordReceive k s) := by
  have hv' : parseFrame (recordReceive k s).cfg.minAppLen ((recordReceive k s).rxBytes 0 k.toNat) =
    .valid ack err sp := hv
  rw [exec_notification h hk, handleReceive, if_neg ho, continuation, recordReceive_rxsz,
    withParsed_of_le (s := recordReceive k s) _ hk]
  simp only [hv']
  rfl

/-- A valid frame in AsyncMatch reports one result, after some draws. -/
theorem exec_notification_match {s : State} {k ack : Half} {err : Word} {sp : Span} (ho : s.op = .asyncMatch)
    (h : s.pend.rx = some k) (hk : k.toNat ≤ s.cfg.rxCap)
    (hv : parseFrame s.cfg.minAppLen (s.rxBytes 0 k.toNat) = .valid ack err sp) (hp : sp.off + 5 ≤ s.cfg.rxCap) :
    ∃ m d, exec (.onUartReceive k) s = matchReport m { recordReceive k s with draws := d } := by
  rw [exec_notification_valid (by rw [ho]; decide) h hk hv, if_pos ho, matchContinuation]
  split
  · exact ⟨_, s.draws + 3, rfl⟩
  · rw [withPayload_of_le (s := recordReceive k s) _ (by omega) hp]
    obtain ⟨d, e⟩ := decodeMatch_frame 0 ((recordReceive k s).rxBytes sp.off 5) (recordReceive k s)
    exact ⟨_, d, by rw [e]⟩

/-- A valid frame in AsyncEnroll reports one status: the decoded step, or the module error. -/
theorem exec_notification_enroll {s : State} {k ack : Half} {err : Word} {sp : Span} (ho : s.op = .asyncEnroll)
    (h : s.pend.rx = some k) (hk : k.toNat ≤ s.cfg.rxCap)
    (hv : parseFrame s.cfg.minAppLen (s.rxBytes 0 k.toNat) = .valid ack err sp)
    (hp : err = 0 → 4 ≤ sp.len ∧ sp.off + 4 ≤ s.cfg.rxCap) :
    exec (.onUartReceive k) s = enrollReport
      (if err = 0 then ⟨decide (s.rxByte sp.off = 0xFF), s.rxByte sp.off, s.rxByte (sp.off + 3),
          be16 (s.rxByte (sp.off + 1)) (s.rxByte (sp.off + 2)), 0⟩
        else ⟨true, 0, 0, 0, err⟩) (recordReceive k s) := by
  rw [exec_notification_valid (by rw [ho]; decide) h hk hv, if_neg (by rw [ho]; decide), enrollContinuation]
  by_cases he : err = 0
  · rw [if_neg (not_not.mpr he), if_pos he,
      withPayload_of_le (s := recordReceive k s) _ (hp he).1 (hp he).2, decodeEnroll_rx]
    rfl
  · rw [if_pos he, if_neg he]
    rfl

/-- The AsyncMatch continuation with its callback registered. -/
theorem matchReport_some {m : MatchResult} {s : State} {h : Handle} (hc : s.cbMatch = some h) :
    matchReport m s = invokeRegistered .onMatch (some h) (.matched m) finishSession s := by rw [matchReport, hc]

/-- The AsyncMatch continuation with no callback registered. -/
theorem matchReport_unset {m : MatchResult} {s : State} (hc : s.cbMatch = none) :
    matchReport m s = .next { s with op := .none } := by
  simp only [matchReport, hc, invokeRegistered_unset, finishSession, endSession]

/-- The AsyncEnroll continuation with its progress callback registered. -/
theorem enrollReport_some {st : EnrollStatus} {s : State} {h : Handle} (hc : s.cbProgress = some h) :
    enrollReport st s = invokeRegistered .onProgress (some h) (.enroll st) (enrollAdvance st) s := by
  rw [enrollReport, hc]

/-- The end of an asynchronous enrollment with its completion callback registered. -/
theorem enrollAdvance_some {st : EnrollStatus} {s : State} {h : Handle} (hs : st.isComplete = true)
    (hc : s.cbComplete = some h) :
    enrollAdvance st s = invokeRegistered .onComplete (some h) (.enroll st) finishSession s := by
  rw [enrollAdvance, if_pos hs, hc]

/-- The end of the AsyncMatch continuation when the callback calls nothing and returns. -/
theorem matchReport_returns {m : MatchResult} {s : State} {h : Handle} {q : List CallbackBody} (hc : s.cbMatch = some h)
    (hq : s.bodies = ⟨[], true⟩ :: q) :
    matchReport m s =
      .next { s with op := .none, bodies := q, invoked := s.invoked ++ [⟨.onMatch, h, .matched m⟩] } := by
  simp only [matchReport, hc, invokeRegistered_returns hq, finishSession, endSession]

/-- The AsyncEnroll continuation after its progress callback has called nothing and returned. -/
theorem enrollReport_returns {st : EnrollStatus} {s : State} {h : Handle} {q : List CallbackBody}
    (hc : s.cbProgress = some h) (hq : s.bodies = ⟨[], true⟩ :: q) :
    enrollReport st s =
      enrollAdvance st { s with bodies := q, invoked := s.invoked ++ [⟨.onProgress, h, .enroll st⟩] } := by
  simp only [enrollReport, hc, invokeRegistered_returns hq]

/-- The AsyncEnroll continuation with no progress callback registered. -/
theorem enrollReport_unset {st : EnrollStatus} {s : State} (hc : s.cbProgress = none) :
    enrollReport st s = enrollAdvance st s := by
  simp only [enrollReport, hc, invokeRegistered_unset]

/-- The end of an asynchronous enrollment when the completion callback calls nothing and returns. -/
theorem enrollAdvance_returns {st : EnrollStatus} {s : State} {h : Handle} {q : List CallbackBody}
    (hs : st.isComplete = true) (hc : s.cbComplete = some h) (hq : s.bodies = ⟨[], true⟩ :: q) :
    enrollAdvance st s =
      .next { s with op := .none, bodies := q, invoked := s.invoked ++ [⟨.onComplete, h, .enroll st⟩] } := by
  simp only [enrollAdvance, hs, hc, invokeRegistered_returns hq, if_true, finishSession, endSession]

/-- The end of an asynchronous enrollment with no completion callback registered. -/
theorem enrollAdvance_unset {st : EnrollStatus} {s : State} (hs : st.isComplete = true) (hc : s.cbComplete = none) :
    enrollAdvance st s = .next { s with op := .none } := by
  simp only [enrollAdvance, hs, hc, invokeRegistered_unset, if_true, finishSession, endSession]

/-- An enrollment step that is not the last re-arms. -/
theorem enrollAdvance_step {st : EnrollStatus} {s : State} (hs : st.isComplete = false) :
    enrollAdvance st s = .next (rearm s) := by
  simp only [enrollAdvance, hs, Bool.false_eq_true, if_false]

/-- The re-arm with its answer given. -/
theorem rearm_given {s : State} {a : Bool} {r : List Bool} (h : s.answers = a :: r) :
    rearm s = { s with answers := r, rxArmed := a || s.rxArmed, op := if a then s.op else .none } := by
  cases a
  · simp only [rearm, startReceive_false h, endSession, Bool.false_eq_true, if_false, Bool.false_or]
  · simp only [rearm, startReceive_true h, if_true, Bool.true_or]

/-! ### The fetch -/

/-- Everything the fetch of a pending notification can do. -/
theorem pendingHandler_cases (s : State) :
    (∃ k, s.pend.rx = some k ∧ pendingHandler s = some (.onUartReceive k)) ∨
    (s.pend.rx = none ∧ s.pend.tx = true ∧ pendingHandler s = some .onTransmitComplete) ∨
    (s.pend.rx = none ∧ s.pend.tx = false ∧ pendingHandler s = none) := by
  unfold pendingHandler
  cases h : s.pend.rx with
  | some k => exact .inl ⟨k, rfl, rfl⟩
  | none => cases ht : s.pend.tx <;> simp

theorem pendingHandler_quiet {s : State} (h : s.pend = ⟨none, false⟩) : pendingHandler s = none := by
  simp [pendingHandler, h]

/-- An issued entry point runs, ON_TRANSMIT_COMPLETE when no receive-complete is pending. -/
theorem fetchEntry_run {i : Instr} {s t : State} (h : t.hung = false) (hx : i = .onTransmitComplete → s.pend.rx = none) :
    fetchEntry i s t = .run i t := by
  have h' : ¬ t.hung = true := by rw [h]; decide
  cases hr : s.pend.rx with
  | none => cases i <;> simp only [fetchEntry, if_neg h', hr]
  | some k =>
    cases i
    case onTransmitComplete => exact absurd (hr.symm.trans (hx rfl)) nofun
    all_goals simp only [fetchEntry, if_neg h']

/-- An issued ON_TRANSMIT_COMPLETE does not go before a pending receive-complete (R293 d). -/
theorem fetchEntry_waits {s t : State} {k : Half} (h : t.hung = false) (hr : s.pend.rx = some k) :
    fetchEntry .onTransmitComplete s t = .run (.onUartReceive k) s := by
  simp only [fetchEntry, h, hr, Bool.false_eq_true, if_false]

end Sys2Proof.Machine
end

