-- ==== Sys2Proof/Laws/Effects.lean ====
section
/-! SUPPORT. Everything `exec` can do when it answers a next state, said once, so that a claim about every instruction is
a case analysis over these effects and unfolds no meaning. -/

namespace Sys2Proof.Machine

/-- The ways a next state of `exec i s` comes about. -/
inductive Effect (i : Instr) (s : State) : State → Prop
  /-- An operation of one step that only answers. -/
  | answered (o : OutValue) (h : s.fg.phase = .idle) : Effect i s (answerCaller o s)
  /-- BUILD_FRAME. -/
  | built (o : OutValue) (c : Half) (p : List Byte) (m : Memory) (h : s.fg.phase = .idle) (hf : fitsTx s p = true)
      (hm : m = (putFrame c p s).tx) : Effect i s (answerCaller o { s with tx := m })
  /-- START_RECEIVE. -/
  | armed (o : OutValue) (r : List Bool) (d : Nat) (a : Bool) (h : s.fg.phase = .idle) :
      Effect i s (answerCaller o { s with answers := r, draws := d, rxArmed := a })
  /-- TRANSMIT. -/
  | handed (o : OutValue) (r : List Bool) (d : Nat) (a : Bool) (n : Nat) (h : s.fg.phase = .idle)
      (hn : n = s.txLen ∨ n ≤ s.cfg.txCap) :
      Effect i s (answerCaller o { s with answers := r, draws := d, txBusy := a, txLen := n })
  /-- ABORT_RECEIVE. -/
  | aborted (hi : i = .abortReceive) (h : s.fg.phase = .idle) : Effect i s (answerCaller .nothing (abortReceive s))
  /-- A setter. -/
  | registered (a b c : Callback) (h : s.fg.phase = .idle) :
      Effect i s (answerCaller .nothing { s with cbMatch := a, cbProgress := b, cbComplete := c })
  /-- The call of DELAY_MS. -/
  | delayed (d : Nat) (hi : i = .delayMs d) (h : s.fg.phase = .idle) : Effect i s (beginDelay i d s)
  /-- The end of DELAY_MS. -/
  | delayEnded (h : s.fg.instr = some i) :
      Effect i s (answerCaller .nothing { s with fg := { s.fg with phase := .idle, instr := none } })
  /-- ON_TRANSMIT_COMPLETE. -/
  | txCompleted : Effect i s { s with pend := { s.pend with tx := false } }
  /-- RESPONSE. -/
  | replied (b : Burst) : Effect i s (peerSend b s)
  /-- A step that is not of its operation, and a delay that has not run out. -/
  | stayed : Effect i s s
  /-- The call of an operation that uses the line. -/
  | called (c : Half) (p : List Byte) (hu : usesLine i = true) (h : s.fg.phase = .idle) : Effect i s (beginCall i c p s)
  /-- `Check` with a session active. -/
  | busy (h : s.fg.instr = some i) : Effect i s (raise .busy 0 s)
  /-- `Check` of a synchronous operation with no session. -/
  | checked (p : Phase) (hu : isStart i = false) (h : s.fg.instr = some i) (hp : p = .arm ∨ p = .send)
      (ho : s.op = .none) : Effect i s (setPhase p s)
  /-- The check-and-set of a START with no session. -/
  | opened (x : Session) (c : Half) (p : List Byte) (hx : startRequest i = some (x, c, p))
      (h : s.fg.instr = some i) (hc : s.fg.phase = .check) (ho : s.op = .none) :
      Effect i s (setPhase .arm (openSession x s))
  /-- `Arm` answered with true; a START leaves the flag, and the enrollment opens its window. -/
  | armedOn (r : List Bool) (d : Nat) (f : Bool) (h : s.fg.instr = some i) (hc : s.fg.phase = .arm) :
      Effect i s (setPhase .send { s with rdy := f, answers := r, draws := d, rxArmed := true })
  | armedWindow (r : List Bool) (d n : Nat) (hu : isStart i = false) (h : s.fg.instr = some i)
      (hc : s.fg.phase = .arm) :
      Effect i s (openWindow n { s with rdy := false, answers := r, draws := d, rxArmed := true })
  /-- `Arm` answered with false. -/
  | armFailed (r : List Bool) (d : Nat) (f : Bool) (x : Session) (h : s.fg.instr = some i) (hc : s.fg.phase = .arm)
      (hx : x = s.op ∨ (x = .none ∧ isStart i = true)) :
      Effect i s (raise .receiveError 0 { s with rdy := f, op := x, answers := r, draws := d })
  /-- `Send` answered with true: on to the window, to the first arm of the enrollment, or to the end of a START. -/
  | sentWindow (r : List Bool) (d n : Nat) (m : Memory) (hu : isStart i = false) (h : s.fg.instr = some i)
      (hc : s.fg.phase = .send) (hf : fitsTx s s.fg.payload = true)
      (hm : m = (putFrame s.fg.cmd s.fg.payload s).tx) :
      Effect i s (openWindow n { s with
        tx := m, answers := r, draws := d, txBusy := true, txLen := 18 + s.fg.payload.length })
  | sentArm (r : List Bool) (d : Nat) (m : Memory) (hu : isStart i = false) (h : s.fg.instr = some i)
      (hc : s.fg.phase = .send) (hf : fitsTx s s.fg.payload = true)
      (hm : m = (putFrame s.fg.cmd s.fg.payload s).tx) :
      Effect i s (setPhase .arm { s with
        tx := m, answers := r, draws := d, txBusy := true, txLen := 18 + s.fg.payload.length })
  | started (r : List Bool) (d : Nat) (m : Memory) (h : s.fg.instr = some i)
      (hf : fitsTx s s.fg.payload = true) (hm : m = (putFrame s.fg.cmd s.fg.payload s).tx) :
      Effect i s (raise .asyncInProgress 0 { s with
        tx := m, answers := r, draws := d, txBusy := true, txLen := 18 + s.fg.payload.length })
  /-- `Send` answered with false. -/
  | sendFailed (r : List Bool) (d : Nat) (x : Session) (m : Memory) (h : s.fg.instr = some i)
      (hc : s.fg.phase = .send) (hf : fitsTx s s.fg.payload = true) (hx : x = s.op ∨ (x = .none ∧ isStart i = true))
      (hm : m = (putFrame s.fg.cmd s.fg.payload s).tx) :
      Effect i s (raise .transmitError 0 { s with tx := m, op := x, answers := r, draws := d })
  /-- `Wait`: the flag, the window, or another poll. -/
  | waited (p : Phase) (hu : isStart i = false) (h : s.fg.instr = some i) (hc : s.fg.phase = .wait)
      (hp : p = .parse ∨ p = .abort) : Effect i s (setPhase p s)
  | polled (n : Nat) (h : s.fg.instr = some i) : Effect i s { s with fg := { s.fg with sleep := n } }
  /-- `Abort`. -/
  | timedOut (hu : isSync i = true) (h : s.fg.instr = some i) (hc : s.fg.phase = .abort) : Effect i s (raise .timeout 0 (abortReceive s))
  /-- `Parse` with an outcome. -/
  | parsed (st : Status) (e : Word) (x : Option Span) (y : EnrollStatus) (v : List Invocation)
      (h : s.fg.instr = some i) (hs : CommandResult.sound ⟨st, e⟩ = true) :
      Effect i s (raise st e { s with fg := { s.fg with span := x, enroll := y }, invoked := v })
  /-- `Parse` of an enrollment step that is not the last. -/
  | stepped (y : EnrollStatus) (v : List Invocation) (hu : isStart i = false) (h : s.fg.instr = some i)
      (hc : s.fg.phase = .parse) : Effect i s (setPhase .arm { s with fg := { s.fg with enroll := y }, invoked := v })
  /-- The return to the caller. -/
  | returned (o : OutValue) (d : Nat) (w : Word) (h : s.fg.instr = some i) (hc : s.fg.phase = .done)
      (hw : w = s.pw ∨ newPassword i = some w ∧ s.fg.result.status = .ok) :
      Effect i s (returnToCaller o { s with draws := d, pw := w })
  /-- ON_UART_RECEIVE with no session. -/
  | notified (k : Half) (h : s.pend.rx = some k) (hk : k.toNat ≤ s.cfg.rxCap) :
      Effect i s (setReady (recordReceive k s))
  /-- ON_UART_RECEIVE with a session. -/
  | continued (k : Half) (u : State) (hi : i = .onUartReceive k) (h : s.pend.rx = some k)
      (hk : k.toNat ≤ s.cfg.rxCap) (ho : s.op ≠ .none) (hu : Touched (mayAbort s) (recordReceive k s) u) : Effect i s u

/-! ### The synchronous request -/

/-- The end of every request: it returns, with `pw` written by a successful SET_PASSWORD alone, or it stops. -/
theorem finishOf_effect {i : Instr} {s t : State} (h : s.fg.instr = some i) (hc : s.fg.phase = .done)
    (ht : finishOf i s = .next t) : Effect i s t := by
  have plain : ∀ o, Effect i s (returnToCaller o s) := fun o => .returned o s.draws s.pw h hc (.inl rfl)
  have decoded : ∀ need (dec : List Byte → State → OutValue × State) (free : State → OutValue × State),
      (∀ p, ∃ d, (dec p s).2 = { s with draws := d }) → (∃ d, (free s).2 = { s with draws := d }) →
      finishDecode need dec free s = .next t → Effect i s t := by
    intro need dec free hd hf ht
    unfold finishDecode at ht
    split at ht
    · split at ht
      · obtain ⟨-, -, ht⟩ := withPayload_next ht
        obtain ⟨d, e⟩ := hd (s.rxBytes _ need)
        injection ht with ht
        rw [← ht, e]
        exact .returned _ d s.pw h hc (.inl rfl)
      · cases ht
    · obtain ⟨d, e⟩ := hf
      injection ht with ht
      rw [← ht, e]
      exact .returned _ d s.pw h hc (.inl rfl)
  have password : ∀ v, newPassword i = some v → finishPassword v s = .next t → Effect i s t := by
    intro v hv ht
    unfold finishPassword at ht
    injection ht with ht
    rw [← ht]
    split
    · exact .returned .nothing s.draws v h hc (.inr ⟨hv, ‹_›⟩)
    · exact plain _
  cases i
  case sendAndAwait => injection ht with ht; rw [← ht]; exact plain _
  case setPassword => exact password _ rfl ht
  case cmdSetPasswordFlash => exact password _ rfl ht
  case cmdSetPasswordTemp => exact password _ rfl ht
  case matchFinger =>
    simp only [finishOf] at ht
    exact decoded _ _ _ (fun p => decodeMatch_frame 1 p s) ⟨_, rfl⟩ ht
  case cmdMatchSync =>
    simp only [finishOf] at ht
    exact decoded _ _ _ (fun p => decodeMatch_frame 1 p s) ⟨_, rfl⟩ ht
  case isFingerPressed | cmdFingerStatus | getFingerprintCount | cmdCount | getSystemPolicy | cmdGetPolicy =>
    simp only [finishOf] at ht
    exact decoded _ _ _ (fun p => ⟨s.draws, rfl⟩) ⟨_, rfl⟩ ht
  all_goals (injection ht with ht; rw [← ht]; exact plain _)

/-- The `Check` of a synchronous operation. -/
theorem checkStep_effect {i : Instr} {s : State} {p : Phase} (hu : isStart i = false) (h : s.fg.instr = some i)
    (hp : p = .arm ∨ p = .send) : Effect i s (checkStep p s) := by
  unfold checkStep
  split
  · exact .busy h
  · exact .checked p hu h hp (not_not.mp ‹_›)

/-- One round of the wait loop. -/
theorem waitStep_effect {i : Instr} {s : State} (hu : isStart i = false) (h : s.fg.instr = some i)
    (hc : s.fg.phase = .wait) : Effect i s (waitStep s) := by
  unfold waitStep
  split
  · exact .waited .parse hu h hc (.inl rfl)
  · split
    · exact .waited .abort hu h hc (.inr rfl)
    · exact .polled _ h

/-- A numbered step of a synchronous request. -/
theorem exchangeStep_effect {i : Instr} {s t : State} (hy : isSync i = true) (hu : isStart i = false) (h : s.fg.instr = some i)
    (ht : exchangeStep (exchangeWindow i) (finishOf i) s = .next t) : Effect i s t := by
  unfold exchangeStep at ht
  split at ht
  · injection ht with ht
    exact ht ▸ .stayed
  · injection ht with ht
    exact ht ▸ checkStep_effect hu h (.inl rfl)
  · rename_i hc
    injection ht with ht
    rw [← ht, armStep]
    obtain ⟨r, d, e⟩ := startReceive_spec (clearReady s)
    cases ha : (startReceive (clearReady s)).1 with
    | true =>
      rw [if_pos rfl, e, ha]
      exact .armedOn r d false h hc
    | false =>
      rw [if_neg (by decide), e, ha]
      exact .armFailed r d false s.op h hc (.inl rfl)
  · rename_i hc
    obtain ⟨hf, a, r, d, m, hm, e⟩ := sendRequest_next ht
    rw [e]
    cases a with
    | true => exact .sentWindow r d _ m hu h hc hf hm
    | false => exact .sendFailed r d s.op m h hc hf (.inl rfl) hm
  · rename_i hc
    injection ht with ht
    exact ht ▸ waitStep_effect hu h hc
  · rename_i hc
    injection ht with ht
    exact ht ▸ .timedOut hy h hc
  · rename_i hc
    obtain ⟨-, ht⟩ := withParsed_next ht
    split at ht
    · injection ht with ht
      exact ht ▸ .parsed .invalidResponse 0 s.fg.span s.fg.enroll s.invoked h (by decide)
    · injection ht with ht
      rw [← ht]
      dsimp only
      split
      · exact .parsed .moduleError _ _ s.fg.enroll s.invoked h (by simp [CommandResult.sound]; assumption)
      · exact .parsed .ok 0 _ s.fg.enroll s.invoked h (by decide)
  · exact finishOf_effect h ‹_› ht

/-! ### The synchronous enrollment -/

/-- A numbered step of the synchronous enrollment. -/
theorem enrollStep_effect {i : Instr} {s t : State} {cb : Callback} (hy : isSync i = true)
    (hu : isStart i = false) (h : s.fg.instr = some i) (ht : enrollStep cb s = .next t) : Effect i s t := by
  unfold enrollStep at ht
  split at ht
  · injection ht with ht
    exact ht ▸ .stayed
  · injection ht with ht
    exact ht ▸ checkStep_effect hu h (.inr rfl)
  · rename_i hc
    obtain ⟨hf, a, r, d, m, hm, e⟩ := sendRequest_next ht
    rw [e]
    cases a with
    | true => exact .sentArm r d m hu h hc hf hm
    | false => exact .sendFailed r d s.op m h hc hf (.inl rfl) hm
  · rename_i hc
    injection ht with ht
    rw [← ht, enrollArmStep]
    obtain ⟨r, d, e⟩ := startReceive_spec (clearReady s)
    cases ha : (startReceive (clearReady s)).1 with
    | true =>
      rw [if_pos rfl, e, ha]
      exact .armedWindow r d _ hu h hc
    | false =>
      rw [if_neg (by decide), e, ha]
      exact .armFailed r d false s.op h hc (.inl rfl)
  · rename_i hc
    injection ht with ht
    exact ht ▸ waitStep_effect hu h hc
  · rename_i hc
    injection ht with ht
    exact ht ▸ .timedOut hy h hc
  · rename_i hc
    obtain ⟨-, ht⟩ := withParsed_next ht
    split at ht
    · injection ht with ht
      exact ht ▸ .parsed .invalidResponse 0 s.fg.span s.fg.enroll s.invoked h (by decide)
    · split at ht
      · injection ht with ht
        rw [← ht]
        exact .parsed .moduleError _ s.fg.span _ s.invoked h (by simp [CommandResult.sound]; assumption)
      · obtain ⟨-, -, ht⟩ := withPayload_next ht
        injection ht with ht
        rw [← ht, enrollDecoded]
        obtain ⟨v, e⟩ := invokeOperand_spec cb (decodeEnroll (s.rxBytes _ 4))
          { s with fg := { s.fg with enroll := decodeEnroll (s.rxBytes _ 4) } }
        rw [e]
        dsimp only
        split
        · exact .parsed .ok 0 s.fg.span _ v h (by decide)
        · exact .stepped _ v hu h hc
  · rename_i hc
    injection ht with ht
    exact ht ▸ .returned _ s.draws s.pw h hc (.inl rfl)

/-! ### The asynchronous session -/

/-- A step of a START. -/
theorem startStep_effect {i : Instr} {s t : State} {x : Session} {c : Half} {p : List Byte}
    (hx : startRequest i = some (x, c, p)) (h : s.fg.instr = some i) (ht : startStep x s = .next t) :
    Effect i s t := by
  have hs : isStart i = true := by rw [isStart, hx]; rfl
  unfold startStep at ht
  split at ht
  · injection ht with ht
    exact ht ▸ .stayed
  · rename_i hc
    injection ht with ht
    rw [← ht, startCheckStep]
    split
    · exact .busy h
    · exact .opened x c p hx h hc (not_not.mp ‹_›)
  · rename_i hc
    injection ht with ht
    rw [← ht, startArmStep]
    obtain ⟨r, d, e⟩ := startReceive_spec s
    cases ha : (startReceive s).1 with
    | true =>
      rw [if_pos rfl, e, ha]
      exact .armedOn r d s.rdy h hc
    | false =>
      rw [if_neg (by decide), e, ha]
      exact .armFailed r d s.rdy .none h hc (.inr ⟨rfl, hs⟩)
  · rename_i hc
    obtain ⟨hf, a, r, d, m, hm, e⟩ := sendRequest_next ht
    rw [e]
    cases a with
    | true => exact .started r d m h hf hm
    | false => exact .sendFailed r d .none m h hc hf (.inr ⟨rfl, hs⟩) hm
  · injection ht with ht
    exact ht ▸ .stayed
  · injection ht with ht
    exact ht ▸ .stayed
  · injection ht with ht
    exact ht ▸ .stayed
  · rename_i hc
    injection ht with ht
    exact ht ▸ .returned _ s.draws s.pw h hc (.inl rfl)

/-- The notification. -/
theorem notification_effect {k : Half} {s t : State} (ht : exec (.onUartReceive k) s = .next t) :
    Effect (.onUartReceive k) s t := by
  have ht : execOnUartReceive k s = .next t := ht
  unfold execOnUartReceive at ht
  split at ht
  swap
  · cases ht
  rename_i h
  split at ht
  swap
  · cases ht
  rename_i hk
  unfold handleReceive at ht
  split at ht
  · injection ht with ht
    exact ht ▸ .notified k h hk
  rename_i ho
  obtain ⟨-, ht⟩ := withParsed_next ht
  split at ht
  · injection ht with ht
    exact ht ▸ .continued k _ rfl h hk ho (.ended _ _)
  refine .continued k t rfl h hk ho ?_
  split at ht
  · unfold matchContinuation at ht
    split at ht
    · rw [drawMatch_spec] at ht
      have drawn : Touched (mayAbort s) (recordReceive k s) { recordReceive k s with draws := s.draws + 3 } :=
        .registers _ _ s.cbMatch s.cbProgress s.cbComplete s.rxArmed s.txBusy s.hung s.answers _ s.invoked
      exact (drawn.trans (matchReport_touched ht)).mono (Or.elim · id id)
    · obtain ⟨-, -, ht⟩ := withPayload_next ht
      obtain ⟨d, ed⟩ := decodeMatch_frame 0 ((recordReceive k s).rxBytes _ 5) (recordReceive k s)
      rw [ed] at ht
      have drawn : Touched (mayAbort s) (recordReceive k s) { recordReceive k s with draws := d } :=
        .registers _ _ s.cbMatch s.cbProgress s.cbComplete s.rxArmed s.txBusy s.hung s.answers _ s.invoked
      exact (drawn.trans (matchReport_touched ht)).mono (Or.elim · id id)
  · unfold enrollContinuation at ht
    split at ht
    · exact enrollReport_touched ht
    · obtain ⟨-, -, ht⟩ := withPayload_next ht
      exact enrollReport_touched ht

/-! ### Every instruction -/

/-- No synchronous operation is a START. -/
theorem not_start_of_request {c : Config} {i : Instr} (h : (exchangeRequest c i).isSome = true) :
    isStart i = false := by
  cases i <;> first | rfl | cases h

theorem not_start_of_enrollment {i : Instr} (h : (enrollOperands i).isSome = true) : isStart i = false := by
  cases i <;> first | rfl | cases h

/-- A synchronous request. -/
theorem request_effect {i : Instr} {s t : State} (hs : (exchangeRequest s.cfg i).isSome = true)
    (ht : exec i s = .next t) : Effect i s t := by
  obtain ⟨⟨c, p⟩, hr⟩ := Option.isSome_iff_exists.mp hs
  have hy : isSync i = true := by
    have : (exchangeRequest Config.default i).isSome = true := exchangeRequest_isSome s.cfg _ i ▸ hs
    simp [isSync, this]
  rw [exec_request hr] at ht
  rcases operation_next ht with ⟨h, rfl⟩ | ⟨-, h, ht⟩
  · exact .called c p (by simp [usesLine, hy]) h
  · exact exchangeStep_effect hy (not_start_of_request hs) h ht

/-- The synchronous enrollment. -/
theorem enrollment_effect {i : Instr} {s t : State} (hs : (enrollOperands i).isSome = true)
    (ht : exec i s = .next t) : Effect i s t := by
  obtain ⟨⟨f, n, cb⟩, hr⟩ := Option.isSome_iff_exists.mp hs
  have hy : isSync i = true := by simp [isSync, hs]
  rw [exec_enrollment hr] at ht
  rcases operation_next ht with ⟨h, rfl⟩ | ⟨-, h, ht⟩
  · exact .called _ _ (by simp [usesLine, hy]) h
  · exact enrollStep_effect hy (not_start_of_enrollment hs) h ht

/-- A START. -/
theorem start_effect {i : Instr} {s t : State} (hs : isStart i = true) (ht : exec i s = .next t) : Effect i s t := by
  obtain ⟨⟨x, c, p⟩, hr⟩ := Option.isSome_iff_exists.mp hs
  rw [exec_start hr] at ht
  rcases operation_next ht with ⟨h, rfl⟩ | ⟨-, h, ht⟩
  · exact .called c p (by simp [usesLine, hs]) h
  · exact startStep_effect hr h ht

/-- Everything `exec` can do when it answers a next state. -/
theorem exec_effect {i : Instr} {s t : State} (ht : exec i s = .next t) : Effect i s t := by
  by_cases hr : (exchangeRequest s.cfg i).isSome = true
  · exact request_effect hr ht
  by_cases he : (enrollOperands i).isSome = true
  · exact enrollment_effect he ht
  by_cases hst : isStart i = true
  · exact start_effect hst ht
  cases i
  case checksum b =>
    obtain ⟨h, ht⟩ := whenIdle_next ht
    injection ht with ht
    exact ht ▸ .answered _ h
  case buildFrame c p =>
    obtain ⟨h, ht⟩ := whenIdle_next ht
    unfold runBuildFrame at ht
    split at ht
    · injection ht with ht
      obtain ⟨m, hm, e⟩ := putFrame_frame c p s
      rw [← ht, e]
      exact .built _ c p m h ‹_› hm
    · cases ht
  case parseFrame =>
    obtain ⟨h, ht⟩ := whenIdle_next ht
    have ht : runParseFrame s = .next t := ht
    obtain ⟨-, ht⟩ := withParsed_next ht
    injection ht with ht
    exact ht ▸ .answered _ h
  case startReceive =>
    obtain ⟨h, ht⟩ := whenIdle_next ht
    injection ht with ht
    obtain ⟨r, d, e⟩ := startReceive_spec s
    rw [← ht, e]
    exact .armed _ r d _ h
  case transmit n =>
    obtain ⟨h, ht⟩ := whenIdle_next ht
    unfold runTransmit at ht
    split at ht
    · injection ht with ht
      obtain ⟨r, d, e⟩ := transmit_spec n s
      rw [← ht, e]
      refine .handed _ r d _ _ h ?_
      split
      · exact .inr ‹_›
      · exact .inl rfl
    · cases ht
  case abortReceive =>
    obtain ⟨h, ht⟩ := whenIdle_next ht
    injection ht with ht
    exact ht ▸ .aborted rfl h
  case getTick =>
    obtain ⟨h, ht⟩ := whenIdle_next ht
    injection ht with ht
    exact ht ▸ .answered _ h
  case delayMs d =>
    have ht : execDelayMs d s = .next t := ht
    unfold execDelayMs at ht
    rcases operation_next ht with ⟨h, rfl⟩ | ⟨-, h, ht⟩
    · exact .delayed d rfl h
    · split at ht
      · injection ht with ht
        exact ht ▸ .delayEnded h
      · injection ht with ht
        exact ht ▸ .stayed
  case onUartReceive k => exact notification_effect ht
  case onTransmitComplete =>
    injection ht with ht
    exact ht ▸ .txCompleted
  case setMatchCallback cb =>
    obtain ⟨h, ht⟩ := whenIdle_next ht
    injection ht with ht
    exact ht ▸ .registered cb s.cbProgress s.cbComplete h
  case setEnrollProgressCallback cb =>
    obtain ⟨h, ht⟩ := whenIdle_next ht
    injection ht with ht
    exact ht ▸ .registered s.cbMatch cb s.cbComplete h
  case setEnrollCompleteCallback cb =>
    obtain ⟨h, ht⟩ := whenIdle_next ht
    injection ht with ht
    exact ht ▸ .registered s.cbMatch s.cbProgress cb h
  case response a b c p =>
    have ht : execResponse a b c p s = .next t := ht
    unfold execResponse at ht
    split at ht
    · injection ht with ht
      exact ht ▸ .replied _
    · cases ht
  case setPassword v fl => cases fl <;> exact absurd rfl hr
  all_goals first
    | exact absurd rfl hr
    | exact absurd rfl he
    | exact absurd rfl hst

/-! ### The step -/

/-- Where the instruction of a step comes from, and the state it runs in. -/
theorem fetch_run {s u : State} {i : Instr} (h : fetch s = .run i u) :
    (∃ f bs, s.script.head? = some (.issue f bs) ∧ decode s.cfg f bs = .ok i ∧ u = dropEvent s ∧
      (agentOf i = .foreground → s.fg.phase = .idle)) ∨
    (s.script.head? = some .fg ∧ u = dropEvent s ∧ s.fg.instr = some i ∧ s.fg.phase ≠ .idle) ∨
    (pendingHandler s = some i ∧ (u = s ∨ u = dropEvent s)) := by
  have fore : ∀ go, fetchForeground s (dropEvent s) go = .run i u →
      (pendingHandler s = some i ∧ u = s) ∨ go (dropEvent s) = .run i u := by
    intro go h
    unfold fetchForeground at h
    split at h
    · cases h
    · split at h
      · injection h with h1 h2
        subst h1
        exact .inl ⟨‹_›, h2.symm⟩
      · exact .inr h
  unfold fetch at h
  split at h
  · cases h
  · rename_i f bs r hs
    unfold fetchIssued at h
    split at h
    · cases h
    · rename_i j hd
      split at h
      · rename_i ha
        rcases fore _ h with ⟨h1, h2⟩ | h
        · exact .inr (.inr ⟨h1, .inl h2⟩)
        · unfold fetchCall at h
          split at h
          · injection h with h1 h2
            subst h1
            exact .inl ⟨f, bs, by simp [hs], hd, h2.symm, fun _ => ‹_›⟩
          · cases h
      · rename_i ha
        unfold fetchEntry at h
        split at h
        · cases h
        · split at h
          · rename_i hp
            injection h with h1 h2
            subst h1
            exact .inr (.inr ⟨by simp [pendingHandler, hp], .inl h2.symm⟩)
          · injection h with h1 h2
            subst h1
            exact .inl ⟨f, bs, by simp [hs], hd, h2.symm, fun h => by simp [ha] at h⟩
      · rename_i ha
        injection h with h1 h2
        subst h1
        exact .inl ⟨f, bs, by simp [hs], hd, h2.symm, fun h => by simp [ha] at h⟩
  · rename_i r hs
    rcases fore _ h with ⟨h1, h2⟩ | h
    · exact .inr (.inr ⟨h1, .inl h2⟩)
    · unfold fetchNextStep at h
      split at h
      · cases h
      · split at h
        · cases h
        · split at h
          · injection h with h1 h2
            subst h1
            exact .inr (.inl ⟨by simp [hs], h2.symm, ‹_›, ‹_›⟩)
          · cases h
  · unfold fetchIrq at h
    split at h
    · cases h
    · split at h
      · rename_i hp
        injection h with h1 h2
        subst h1
        exact .inr (.inr ⟨hp, .inr h2.symm⟩)
      · cases h
  all_goals cases h

/-- A step that runs no instruction is one of the engines, the peer or the tick, or nothing but the script moves. -/
theorem fetch_moved {s u : State} (h : fetch s = .moved u) :
    u = s ∨ u = dropEvent s ∨ (s.script.head? = some .rxe ∧ u = rxeStep (dropEvent s)) ∨
    (s.script.head? = some .txe ∧ u = txeStep (dropEvent s)) ∨ u = peerTake (dropEvent s) ∨
    (∃ b, u = peerSend b (dropEvent s)) ∨ u = tickStep (dropEvent s) := by
  have fore : ∀ go, fetchForeground s (dropEvent s) go = .moved u → u = dropEvent s ∨ go (dropEvent s) = .moved u := by
    intro go h
    unfold fetchForeground at h
    split at h
    · injection h with h
      exact .inl h.symm
    · split at h
      · cases h
      · exact .inr h
  unfold fetch at h
  split at h
  · injection h with h
    exact .inl h.symm
  · unfold fetchIssued at h
    split at h
    · cases h
    · split at h
      · rcases fore _ h with h | h
        · exact .inr (.inl h)
        · unfold fetchCall at h
          split at h <;> cases h
      · unfold fetchEntry at h
        split at h
        · injection h with h
          exact .inr (.inl h.symm)
        · split at h <;> cases h
      · cases h
  · rcases fore _ h with h | h
    · exact .inr (.inl h)
    · unfold fetchNextStep at h
      split at h
      · injection h with h
        exact .inr (.inl h.symm)
      · split at h
        · injection h with h
          exact .inr (.inl h.symm)
        · split at h
          · cases h
          · injection h with h
            exact .inr (.inl h.symm)
  · unfold fetchIrq at h
    split at h
    · injection h with h
      exact .inr (.inl h.symm)
    · split at h
      · cases h
      · injection h with h
        exact .inr (.inl h.symm)
  · rename_i hs
    injection h with h
    exact .inr (.inr (.inl ⟨by simp [hs], h.symm⟩))
  · rename_i hs
    injection h with h
    exact .inr (.inr (.inr (.inl ⟨by simp [hs], h.symm⟩)))
  · injection h with h
    exact .inr (.inr (.inr (.inr (.inl h.symm))))
  · injection h with h
    exact .inr (.inr (.inr (.inr (.inr (.inl ⟨_, h.symm⟩)))))
  · injection h with h
    exact .inr (.inr (.inr (.inr (.inr (.inr h.symm)))))

/-- A step that answers a next state ran an instruction, with one of its effects, or moved an engine, the peer or the
tick. -/
theorem step_next {s t : State} (h : step s = .next t) :
    (∃ i u, fetch s = .run i u ∧ exec i u = .next t ∧ Effect i u t) ∨ fetch s = .moved t := by
  unfold step at h
  split at h
  · exact .inl ⟨_, _, ‹_›, h, exec_effect h⟩
  · injection h with h
    subst h
    exact .inr ‹_›
  · cases h

end Sys2Proof.Machine
end

