-- ==== Sys2Proof/Laws/PerInstr.lean ====
section
/-! SUPPORT. One lemma per instruction: its encoding begins with the select field of its row in spec/opcode_table.json,
an ordinal (R102) or a command code (R90, R91), and its operands follow. -/

namespace Sys2Proof.Laws.Selector

/-- The select field of each row: 8 bits for an operation, 16 bits big-endian (R53) for a request; a reply's row selects
nothing and its ack code stands there. -/
def selectBytes (c : Config) : Instr → List Byte
  | .checksum _ => [0x01]
  | .buildFrame _ _ => [0x02]
  | .parseFrame => [0x03]
  | .startReceive => [0x10]
  | .transmit _ => [0x11]
  | .abortReceive => [0x12]
  | .getTick => [0x13]
  | .delayMs _ => [0x14]
  | .onUartReceive _ => [0x18]
  | .onTransmitComplete => [0x19]
  | .sendAndAwait _ _ _ => [0x20]
  | .init => [0x30]
  | .isFingerPressed => [0x31]
  | .matchFinger => [0x32]
  | .autoEnroll _ _ _ => [0x33]
  | .startAsyncMatch => [0x34]
  | .startAsyncEnroll _ _ => [0x35]
  | .deleteFingerprint _ => [0x36]
  | .deleteAllFingerprints => [0x37]
  | .getFingerprintCount => [0x38]
  | .setPassword _ _ => [0x39]
  | .updateFeatureAfterMatch _ => [0x3A]
  | .getSystemPolicy => [0x3B]
  | .enterSleepMode _ => [0x3C]
  | .setLedControl _ => [0x3D]
  | .setMatchCallback _ => [0x3E]
  | .setEnrollProgressCallback _ => [0x3F]
  | .setEnrollCompleteCallback _ => [0x40]
  | .cmdHeartbeat => [0x03, 0x03]
  | .cmdAutoEnroll _ _ => [0x01, 0x18]
  | .cmdMatchSync => [0x01, 0x23]
  | .cmdMatchAsync => [0x01, 0x21]
  | .cmdDeleteOne _ => [0x01, 0x31]
  | .cmdDeleteAll => [0x01, 0x31]
  | .cmdFingerStatus => [0x01, 0x35]
  | .cmdCount => [0x02, 0x03]
  | .cmdSetPasswordFlash _ => [0x03, 0x05]
  | .cmdSetPasswordTemp _ => [0x02, 0x01]
  | .cmdUpdateFeature _ => [0x01, 0x16]
  | .cmdGetPolicy => [0x02, 0xFB]
  | .cmdEnterSleep _ => bytes16 c.cmdEnterSleep
  | .cmdSetLed _ => bytes16 c.cmdSetLed
  | .response ack _ _ _ => bytes16 ack

/-- An instruction's encoding begins with the select field of its row. -/
def Statement (i : Instr) : Prop := ∀ c : Config, ∃ operands : List Byte, encode c i = selectBytes c i ++ operands

theorem checksum (b : List Byte) : Statement (.checksum b) := fun _ => ⟨_, rfl⟩
theorem buildFrame (cmd : Half) (p : List Byte) : Statement (.buildFrame cmd p) := fun _ => ⟨_, rfl⟩
theorem parseFrame : Statement .parseFrame := fun _ => ⟨_, rfl⟩
theorem startReceive : Statement .startReceive := fun _ => ⟨_, rfl⟩
theorem transmit (n : Nat) : Statement (.transmit n) := fun _ => ⟨_, rfl⟩
theorem abortReceive : Statement .abortReceive := fun _ => ⟨_, rfl⟩
theorem getTick : Statement .getTick := fun _ => ⟨_, rfl⟩
theorem delayMs (d : Nat) : Statement (.delayMs d) := fun _ => ⟨_, rfl⟩
theorem onUartReceive (n : Half) : Statement (.onUartReceive n) := fun _ => ⟨_, rfl⟩
theorem onTransmitComplete : Statement .onTransmitComplete := fun _ => ⟨_, rfl⟩
theorem sendAndAwait (cmd : Half) (t : Nat) (p : List Byte) : Statement (.sendAndAwait cmd t p) := fun _ => ⟨_, rfl⟩
theorem init : Statement .init := fun _ => ⟨_, rfl⟩
theorem isFingerPressed : Statement .isFingerPressed := fun _ => ⟨_, rfl⟩
theorem matchFinger : Statement .matchFinger := fun _ => ⟨_, rfl⟩
theorem autoEnroll (f : Half) (n : Byte) (cb : Callback) : Statement (.autoEnroll f n cb) := fun _ => ⟨_, rfl⟩
theorem startAsyncMatch : Statement .startAsyncMatch := fun _ => ⟨_, rfl⟩
theorem startAsyncEnroll (f : Half) (n : Byte) : Statement (.startAsyncEnroll f n) := fun _ => ⟨_, rfl⟩
theorem deleteFingerprint (f : Half) : Statement (.deleteFingerprint f) := fun _ => ⟨_, rfl⟩
theorem deleteAllFingerprints : Statement .deleteAllFingerprints := fun _ => ⟨_, rfl⟩
theorem getFingerprintCount : Statement .getFingerprintCount := fun _ => ⟨_, rfl⟩
theorem setPassword (v : Word) (fl : Bool) : Statement (.setPassword v fl) := fun _ => ⟨_, rfl⟩
theorem updateFeatureAfterMatch (f : Half) : Statement (.updateFeatureAfterMatch f) := fun _ => ⟨_, rfl⟩
theorem getSystemPolicy : Statement .getSystemPolicy := fun _ => ⟨_, rfl⟩
theorem enterSleepMode (d : Bool) : Statement (.enterSleepMode d) := fun _ => ⟨_, rfl⟩
theorem setLedControl (l : LedInfo) : Statement (.setLedControl l) := fun _ => ⟨_, rfl⟩
theorem setMatchCallback (cb : Callback) : Statement (.setMatchCallback cb) := fun _ => ⟨_, rfl⟩
theorem setEnrollProgressCallback (cb : Callback) : Statement (.setEnrollProgressCallback cb) := fun _ => ⟨_, rfl⟩
theorem setEnrollCompleteCallback (cb : Callback) : Statement (.setEnrollCompleteCallback cb) := fun _ => ⟨_, rfl⟩
theorem cmdHeartbeat : Statement .cmdHeartbeat := fun _ => ⟨_, rfl⟩
theorem cmdAutoEnroll (n : Byte) (f : Half) : Statement (.cmdAutoEnroll n f) := fun _ => ⟨_, rfl⟩
theorem cmdMatchSync : Statement .cmdMatchSync := fun _ => ⟨_, rfl⟩
theorem cmdMatchAsync : Statement .cmdMatchAsync := fun _ => ⟨_, rfl⟩
theorem cmdDeleteOne (f : Half) : Statement (.cmdDeleteOne f) := fun _ => ⟨_, rfl⟩
theorem cmdDeleteAll : Statement .cmdDeleteAll := fun _ => ⟨_, rfl⟩
theorem cmdFingerStatus : Statement .cmdFingerStatus := fun _ => ⟨_, rfl⟩
theorem cmdCount : Statement .cmdCount := fun _ => ⟨_, rfl⟩
theorem cmdSetPasswordFlash (v : Word) : Statement (.cmdSetPasswordFlash v) := fun _ => ⟨_, rfl⟩
theorem cmdSetPasswordTemp (v : Word) : Statement (.cmdSetPasswordTemp v) := fun _ => ⟨_, rfl⟩
theorem cmdUpdateFeature (f : Half) : Statement (.cmdUpdateFeature f) := fun _ => ⟨_, rfl⟩
theorem cmdGetPolicy : Statement .cmdGetPolicy := fun _ => ⟨_, rfl⟩
theorem cmdEnterSleep (d : Bool) : Statement (.cmdEnterSleep d) := fun _ => ⟨_, rfl⟩
theorem cmdSetLed (l : LedInfo) : Statement (.cmdSetLed l) := fun _ => ⟨_, rfl⟩
theorem response (ack : Half) (pw : Word) (err : Word) (p : List Byte) : Statement (.response ack pw err p) := fun _ => ⟨_, rfl⟩

end Sys2Proof.Laws.Selector
end

