-- ==== Sys2Proof/Tests/Slice0.lean ====
section
/-! SUPPORT. Tests of single steps against values taken from the spec (95_test_vectors.md, and the tables of
30_encoding.md), the refusals of `WellFormed`, and a witness for the hypotheses of every obligation. -/

namespace Sys2Proof.Tests

open Sys2Proof Sys2Proof.Machine

/-! ### The states the tests are about -/

/-- The parameters of 95_test_vectors.md section 3, with stand-ins for the two open codes. -/
def cfg : Config where
  txCap := 64
  rxCap := 64
  minAppLen := 10
  tickBits := 32
  pollMs := 10
  initialPassword := 0
  cmdEnterSleep := 0xABCD
  cmdSetLed := 0xABCE
  uartLine := ⟨57600, 8, 0, 1, 0, 1, [], []⟩

/-- Reset with these parameters at tick 1000. -/
def base : State := State.resetWith cfg 1000

/-- `s` in a phase of an operation. -/
def during (i : Instr) (p : Phase) (s : State) : State := { s with fg := { s.fg with phase := p, instr := some i } }

/-- `s` with the transport's next answers. -/
def answers (l : List Bool) (s : State) : State := { s with answers := l }

/-- `s` with a frame in `RX` and its size recorded. -/
def received (bs : List Byte) (s : State) : State :=
  { s with rx := Memory.writeBytes [] 0 bs, rxsz := BitVec.ofNat 16 bs.length }

/-- `s` with a frame in `RX` and its notification pending. -/
def notified (bs : List Byte) (s : State) : State :=
  { s with rx := Memory.writeBytes [] 0 bs, pend := ⟨some (BitVec.ofNat 16 bs.length), false⟩ }

/-- `s` done with `OK` and a payload span. -/
def doneOk (len : Nat) (s : State) : State :=
  { s with fg := { s.fg with phase := .done, result := ⟨.ok, 0⟩, span := some ⟨21, len⟩ } }

/-- The next state, if there is one. -/
def nextOf : Res → Option State
  | .next t => some t
  | _ => none

/-- A part of the next state, if there is one. -/
def ask {α : Type} (f : State → α) (r : Res) : Option α := (nextOf r).map f

/-- The refusal or the fault, if the outcome is one. -/
def stopOf : Res → Option (Fault ⊕ Refusal)
  | .next _ => none
  | .fault e => some (.inl e)
  | .refused r => some (.inr r)

/-- The magic constant, written out from R82. -/
def M : List Byte := [0xF1, 0x1F, 0xE2, 0x2E, 0xB6, 0x6B, 0xA8, 0x8A]

/-- Frames of 95_test_vectors.md. -/
def b1 : List Byte := M ++ [0x00, 0x07, 0x86, 0x00, 0x00, 0x00, 0x00, 0x03, 0x03, 0xFA]
def b5 : List Byte := M ++ [0x00, 0x07, 0x86, 0x00, 0x00, 0x00, 0x00, 0x01, 0x21, 0xDE]
def b8 : List Byte :=
  M ++ [0x00, 0x0C, 0x81, 0x00, 0x00, 0x00, 0x00, 0x01, 0x31, 0x00, 0x00, 0x42, 0x00, 0x00, 0x8C]
def b15 : List Byte := M ++ [0x00, 0x0B, 0x82, 0x00, 0x00, 0x00, 0x00, 0x01, 0x18, 0x01, 0x06, 0x00, 0x05, 0xDB]
def q1 : List Byte :=
  M ++ [0x00, 0x0B, 0x82, 0x00, 0x00, 0x00, 0x00, 0x03, 0x03, 0x00, 0x00, 0x00, 0x00, 0xFA]
def q2 : List Byte :=
  M ++ [0x00, 0x0B, 0x82, 0x00, 0x00, 0x00, 0x00, 0x01, 0x31, 0x00, 0x00, 0x00, 0x17, 0xB7]
def q3 : List Byte :=
  M ++ [0x00, 0x0C, 0x81, 0x00, 0x00, 0x00, 0x00, 0x01, 0x35, 0x00, 0x00, 0x00, 0x00, 0x01, 0xC9]
def q5 : List Byte :=
  M ++ [0x00, 0x0D, 0x80, 0x00, 0x00, 0x00, 0x00, 0x02, 0x03, 0x00, 0x00, 0x00, 0x00, 0x00, 0x03, 0xF8]
def q6 : List Byte :=
  M ++ [0x00, 0x0F, 0x7E, 0x00, 0x00, 0x00, 0x00, 0x02, 0xFB, 0x00, 0x00, 0x00, 0x00, 0x00, 0x00, 0x00, 0x05, 0xFE]
def q7 : List Byte :=
  M ++ [0x00, 0x11, 0x7C, 0x00, 0x00, 0x00, 0x00, 0x01, 0x23, 0x00, 0x00, 0x00, 0x00, 0x00, 0x01, 0x00, 0x5A, 0x00,
    0x07, 0x7A]
def q8 : List Byte :=
  M ++ [0x00, 0x10, 0x7D, 0x00, 0x00, 0x00, 0x00, 0x01, 0x21, 0x00, 0x00, 0x00, 0x00, 0x01, 0x00, 0x5A, 0x00, 0x07,
    0x7C]
def q12 : List Byte :=
  M ++ [0x00, 0x0B, 0x82, 0x00, 0x00, 0x00, 0x00, 0x01, 0x18, 0x00, 0x00, 0x00, 0x0B, 0xDC]
/-- Q19: Q1 with a flipped bit in the last byte. -/
def q19 : List Byte :=
  M ++ [0x00, 0x0B, 0x82, 0x00, 0x00, 0x00, 0x00, 0x03, 0x03, 0x00, 0x00, 0x00, 0x00, 0xFB]
/-- Q29: application length 10. -/
def q29 : List Byte := M ++ [0x00, 0x0A, 0x83, 0x00, 0x00, 0x00, 0x00, 0x03, 0x03, 0x00, 0x00, 0x00, 0xFA]
def e3 : List Byte :=
  M ++ [0x00, 0x0F, 0x7E, 0x00, 0x00, 0x00, 0x00, 0x01, 0x18, 0x00, 0x00, 0x00, 0x00, 0x03, 0x00, 0x05, 0x32, 0xAD]
def e7 : List Byte :=
  M ++ [0x00, 0x0F, 0x7E, 0x00, 0x00, 0x00, 0x00, 0x01, 0x18, 0x00, 0x00, 0x00, 0x00, 0xFF, 0x00, 0x05, 0x64, 0x7F]
/-- E16: an enrollment step with a 3-byte payload. -/
def e16 : List Byte :=
  M ++ [0x00, 0x0E, 0x7F, 0x00, 0x00, 0x00, 0x00, 0x01, 0x18, 0x00, 0x00, 0x00, 0x00, 0x01, 0x00, 0x05, 0xE1]
/-- A5: a match reply with error 8. -/
def a5 : List Byte :=
  M ++ [0x00, 0x0B, 0x82, 0x00, 0x00, 0x00, 0x00, 0x01, 0x21, 0x00, 0x00, 0x00, 0x08, 0xD6]

/-! ### Ill-formed terms -/

theorem test_wf_buildFrame : Instr.wf (.buildFrame 0 (List.replicate 65529 0)) = false := by
  rw [Instr.wf, List.length_replicate]; decide
theorem test_wf_transmit : Instr.wf (.transmit 65536) = false := by decide
theorem test_wf_delayMs : Instr.wf (.delayMs 4294967296) = false := by decide
theorem test_wf_sendAndAwait_window : Instr.wf (.sendAndAwait 0 4294967296 []) = false := by decide
theorem test_wf_sendAndAwait_payload : Instr.wf (.sendAndAwait 0 0 (List.replicate 65529 0)) = false := by
  rw [Instr.wf, List.length_replicate]; decide
theorem test_wf_response : Instr.wf (.response 0 0 0 (List.replicate 65525 0)) = false := by
  rw [Instr.wf, List.length_replicate]; decide

/-! ### Decoding: words written out from R102 (ordinals), R90 (codes), R86 (reply) and R54 (byte order) -/

theorem test_decode_checksum :
    decode cfg .opsel [0x01, 0xFF, 0x01] = .ok (.checksum [0xFF, 0x01]) := by decide
theorem test_decode_buildFrame :
    decode cfg .opsel [0x02, 0x03, 0x03, 0xAA] = .ok (.buildFrame 0x0303 [0xAA]) := by decide
theorem test_decode_parseFrame :
    decode cfg .opsel [0x03] = .ok (.parseFrame) := by decide
theorem test_decode_startReceive :
    decode cfg .opsel [0x10] = .ok (.startReceive) := by decide
theorem test_decode_transmit :
    decode cfg .opsel [0x11, 0x01, 0x02] = .ok (.transmit 258) := by decide
theorem test_decode_abortReceive :
    decode cfg .opsel [0x12] = .ok (.abortReceive) := by decide
theorem test_decode_getTick :
    decode cfg .opsel [0x13] = .ok (.getTick) := by decide
theorem test_decode_delayMs :
    decode cfg .opsel [0x14, 0x00, 0x01, 0x00, 0x02] = .ok (.delayMs 65538) := by decide
theorem test_decode_onUartReceive :
    decode cfg .opsel [0x18, 0x01, 0x16] = .ok (.onUartReceive 0x0116) := by decide
theorem test_decode_onTransmitComplete :
    decode cfg .opsel [0x19] = .ok (.onTransmitComplete) := by decide
theorem test_decode_sendAndAwait :
    decode cfg .opsel [0x20, 0x01, 0x31, 0x00, 0x00, 0x07, 0xD0, 0x00, 0x42] = .ok (.sendAndAwait 0x0131 2000 [0x00, 0x42]) := by decide
theorem test_decode_init :
    decode cfg .opsel [0x30] = .ok (.init) := by decide
theorem test_decode_isFingerPressed :
    decode cfg .opsel [0x31] = .ok (.isFingerPressed) := by decide
theorem test_decode_matchFinger :
    decode cfg .opsel [0x32] = .ok (.matchFinger) := by decide
theorem test_decode_autoEnroll :
    decode cfg .opsel [0x33, 0x00, 0x05, 0x06, 0x01, 0x11, 0x22, 0x33, 0x44] = .ok (.autoEnroll 5 6 (some 0x11223344)) := by decide
theorem test_decode_startAsyncMatch :
    decode cfg .opsel [0x34] = .ok (.startAsyncMatch) := by decide
theorem test_decode_startAsyncEnroll :
    decode cfg .opsel [0x35, 0x00, 0x05, 0x06] = .ok (.startAsyncEnroll 5 6) := by decide
theorem test_decode_deleteFingerprint :
    decode cfg .opsel [0x36, 0x00, 0x42] = .ok (.deleteFingerprint 0x0042) := by decide
theorem test_decode_deleteAllFingerprints :
    decode cfg .opsel [0x37] = .ok (.deleteAllFingerprints) := by decide
theorem test_decode_getFingerprintCount :
    decode cfg .opsel [0x38] = .ok (.getFingerprintCount) := by decide
theorem test_decode_setPassword :
    decode cfg .opsel [0x39, 0x12, 0x34, 0x56, 0x78, 0x01] = .ok (.setPassword 0x12345678 true) := by decide
theorem test_decode_updateFeatureAfterMatch :
    decode cfg .opsel [0x3A, 0x00, 0x07] = .ok (.updateFeatureAfterMatch 7) := by decide
theorem test_decode_getSystemPolicy :
    decode cfg .opsel [0x3B] = .ok (.getSystemPolicy) := by decide
theorem test_decode_enterSleepMode :
    decode cfg .opsel [0x3C, 0x01] = .ok (.enterSleepMode true) := by decide
theorem test_decode_setLedControl :
    decode cfg .opsel [0x3D, 0x01, 0x02, 0x03, 0x04, 0x05] = .ok (.setLedControl ⟨1, 2, 3, 4, 5⟩) := by decide
theorem test_decode_setMatchCallback :
    decode cfg .opsel [0x3E, 0x01, 0x00, 0x00, 0x00, 0x09] = .ok (.setMatchCallback (some 9)) := by decide
theorem test_decode_setEnrollProgressCallback :
    decode cfg .opsel [0x3F, 0x00] = .ok (.setEnrollProgressCallback none) := by decide
theorem test_decode_setEnrollCompleteCallback :
    decode cfg .opsel [0x40, 0x01, 0x00, 0x00, 0x00, 0x0A] = .ok (.setEnrollCompleteCallback (some 10)) := by decide
theorem test_decode_cmdHeartbeat :
    decode cfg .appOut [0x03, 0x03] = .ok (.cmdHeartbeat) := by decide
theorem test_decode_cmdAutoEnroll :
    decode cfg .appOut [0x01, 0x18, 0x06, 0x00, 0x05] = .ok (.cmdAutoEnroll 6 5) := by decide
theorem test_decode_cmdMatchSync :
    decode cfg .appOut [0x01, 0x23] = .ok (.cmdMatchSync) := by decide
theorem test_decode_cmdMatchAsync :
    decode cfg .appOut [0x01, 0x21] = .ok (.cmdMatchAsync) := by decide
theorem test_decode_cmdDeleteOne :
    decode cfg .appOut [0x01, 0x31, 0x00, 0x00, 0x42] = .ok (.cmdDeleteOne 0x0042) := by decide
theorem test_decode_cmdDeleteAll :
    decode cfg .appOut [0x01, 0x31, 0x01] = .ok (.cmdDeleteAll) := by decide
theorem test_decode_cmdFingerStatus :
    decode cfg .appOut [0x01, 0x35] = .ok (.cmdFingerStatus) := by decide
theorem test_decode_cmdCount :
    decode cfg .appOut [0x02, 0x03] = .ok (.cmdCount) := by decide
theorem test_decode_cmdSetPasswordFlash :
    decode cfg .appOut [0x03, 0x05, 0x12, 0x34, 0x56, 0x78] = .ok (.cmdSetPasswordFlash 0x12345678) := by decide
theorem test_decode_cmdSetPasswordTemp :
    decode cfg .appOut [0x02, 0x01, 0x12, 0x34, 0x56, 0x78] = .ok (.cmdSetPasswordTemp 0x12345678) := by decide
theorem test_decode_cmdUpdateFeature :
    decode cfg .appOut [0x01, 0x16, 0x00, 0x07] = .ok (.cmdUpdateFeature 7) := by decide
theorem test_decode_cmdGetPolicy :
    decode cfg .appOut [0x02, 0xFB] = .ok (.cmdGetPolicy) := by decide
theorem test_decode_cmdEnterSleep :
    decode cfg .appOut [0xAB, 0xCD, 0x00] = .ok (.cmdEnterSleep false) := by decide
theorem test_decode_cmdSetLed :
    decode cfg .appOut [0xAB, 0xCE, 0x01, 0x02, 0x03, 0x04, 0x05] = .ok (.cmdSetLed ⟨1, 2, 3, 4, 5⟩) := by decide
theorem test_decode_response :
    decode cfg .appIn [0x01, 0x31, 0x00, 0x00, 0x00, 0x00, 0x00, 0x00, 0x00, 0x17, 0xAA] = .ok (.response 0x0131 0 0x17 [0xAA]) := by decide
theorem test_decode_reserved_ordinal : decode cfg .opsel [0x41] = .reject .unknownOrdinal := by decide
theorem test_decode_unknown_code : decode cfg .appOut [0x03, 0x04] = .reject .unknownCode := by decide
theorem test_decode_delete_mode : decode cfg .appOut [0x01, 0x31, 0x02] = .reject .badMode := by decide

/-! ### The codec (95_test_vectors.md 2.1 to 2.3) -/

/-- K9. -/
theorem test_checksum_link : ask (fun t => t.results) (exec (.checksum (M ++ [0x00, 0x07])) base) =
    some [⟨none, .checksum 0x86⟩] := by decide
/-- K6. -/
theorem test_checksum_wraps : ask (fun t => t.results) (exec (.checksum [0xFF, 0x01]) base) =
    some [⟨none, .checksum 0x00⟩] := by decide
/-- B8, S2. -/
theorem test_buildFrame_delete :
    ask (fun t => t.txBytes 0 23) (exec (.buildFrame 0x0131 [0x00, 0x00, 0x42, 0x00, 0x00]) base) = some b8 := by decide
/-- B1 after B8: `TX[18..23)` keeps `00 42 00 00 8C`. -/
theorem test_buildFrame_keeps_the_rest :
    ask (fun t => t.txBytes 18 5) (exec (.buildFrame 0x0303 []) { base with tx := Memory.writeBytes [] 0 b8 }) =
      some [0x00, 0x42, 0x00, 0x00, 0x8C] := by decide
/-- Q7. -/
theorem test_parseFrame_valid : ask (fun t => t.results) (exec .parseFrame (received q7 base)) =
    some [⟨none, .verdict (.valid 0x0123 0 ⟨21, 6⟩)⟩] := by decide
/-- Q29 with `MIN_APP_LEN` 10. -/
theorem test_parseFrame_length_ten : ask (fun t => t.results) (exec .parseFrame (received q29 base)) =
    some [⟨none, .verdict (.valid 0x0303 0xFA ⟨21, 0⟩)⟩] := by decide

/-! ### The transport (2.4) -/

/-- T1. -/
theorem test_startReceive_true : ask (fun t => t.rxArmed) (exec .startReceive (answers [true] base)) = some true := by
  decide
/-- T2. -/
theorem test_startReceive_false : ask (fun t => t.rxArmed) (exec .startReceive (answers [false] base)) = some false := by
  decide
/-- T3. -/
theorem test_transmit : ask (fun t => (t.txBusy, t.txLen)) (exec (.transmit 18) (answers [true] base)) =
    some (true, 18) := by decide
/-- R51: there is no `TX[64]`. -/
theorem test_transmit_outside : stopOf (exec (.transmit 65) base) = some (.inl .outsideBuffer) := by decide
/-- T4. -/
theorem test_txe : ask (fun t => (t.wireOut, t.txBusy, t.pend))
    (step { base with script := [.txe], tx := Memory.writeBytes [] 0 b1, txBusy := true, txLen := 18 }) =
      some ([b1], false, ⟨none, true⟩) := by decide
/-- T5. -/
theorem test_rxe_armed : ask (fun t => (t.rxBytes 0 22, t.rxArmed, t.pend))
    (step { base with script := [.rxe], wireIn := [q1], rxArmed := true }) = some (q1, false, ⟨some 22, false⟩) := by
  decide
/-- T6. -/
theorem test_rxe_unarmed : ask (fun t => (t.wireIn, t.rx, t.pend)) (step { base with script := [.rxe], wireIn := [q1] }) =
    some ([], [], ⟨none, false⟩) := by decide
/-- T7. -/
theorem test_rxe_overlong : ask (fun t => (t.rx.length, t.pend.rx))
    (step { base with script := [.rxe], wireIn := [List.replicate 40 0x55], rxArmed := true,
                      cfg := { cfg with rxCap := 28 } }) = some (28, some 28) := by decide
/-- T8. -/
theorem test_abortReceive : ask (fun t => t.rxArmed) (exec .abortReceive { base with rxArmed := true }) = some false := by
  decide
theorem test_getTick : ask (fun t => t.results) (exec .getTick base) = some [⟨none, .tick 1000⟩] := by decide
/-- R145. -/
theorem test_delayMs : ask (fun t => t.fg.sleep) (exec (.delayMs 10) base) = some 10 := by decide
/-- T11. -/
theorem test_tick_wraps : ask (fun t => t.tick) (step { base with script := [.tick], tick := 0xFFFFFFFF }) = some 0 := by
  decide
/-- T9. -/
theorem test_onUartReceive : ask (fun t => (t.rxsz, t.rdy, t.pend))
    (exec (.onUartReceive 22) { base with pend := ⟨some 22, false⟩ }) = some (22, true, ⟨none, false⟩) := by decide
/-- U23. -/
theorem test_onUartReceive_spurious : stopOf (exec (.onUartReceive 22) base) = some (.inr .spuriousNotification) := by
  decide
/-- T10. -/
theorem test_onTransmitComplete : ask (fun t => t.pend)
    (exec .onTransmitComplete { base with pend := ⟨some 22, true⟩ }) = some ⟨some 22, false⟩ := by decide

/-! ### SEND_AND_AWAIT (2.5) -/

/-- The heartbeat request of 2.5. -/
def d : Instr := .sendAndAwait 0x0303 2000 []

/-- D1v. -/
theorem test_sendAndAwait_busy : ask (fun t => (t.fg.phase, t.fg.result, t.tx, t.rxArmed))
    (exec d (during d .check { base with op := .asyncMatch })) = some (.done, ⟨.busy, 0⟩, [], false) := by decide
/-- D3v: `TX` holds B1. -/
theorem test_sendAndAwait_transmitError : ask (fun t => (t.fg.result, t.txBytes 0 18))
    (exec d (answers [false] { base with fg := { base.fg with phase := .send, instr := some d, cmd := 0x0303 } })) =
      some (⟨.transmitError, 0⟩, b1) := by decide

/-- A state waiting with a window of 2000 ms. -/
def waiting (t0 tick : Nat) (rdy : Bool) : State :=
  { base with tick := tick, rdy := rdy,
              fg := { base.fg with phase := .wait, instr := some .init, t0 := t0, timeout := 2000 } }

/-- D11v: not strictly greater. -/
theorem test_wait_at_the_window : ask (fun t => t.fg.phase) (exec .init (waiting 1000 3000 false)) = some .wait := by
  decide
/-- D15v: the wrapped subtraction, and one millisecond more than the window. -/
theorem test_wait_wraps : ask (fun t => t.fg.phase) (exec .init (waiting 0xFFFFFF00 0x6D1 false)) = some .abort := by
  decide

/-! ### The wrappers (2.6): the request that the call latches, or the decoded reply -/

/-- The code and payload latched by the call. -/
def latched (i : Instr) : Option (Half × List Byte) := ask (fun t => (t.fg.cmd, t.fg.payload)) (exec i base)

/-- What the operation returns at `Done` with `OK`, with a reply and its payload length. -/
def decoded (i : Instr) (reply : List Byte) (len : Nat) : Option OutValue :=
  (ask (fun t => t.results) (exec i (doneOk len (during i .done (received reply base))))).bind
    (fun l => l.head?.map (fun r => r.out))

/-- B1. -/
theorem test_init : latched .init = some (0x0303, []) := by decide
/-- W2. -/
theorem test_isFingerPressed : decoded .isFingerPressed q3 1 = some (.pressed true) := by decide
/-- W5. -/
theorem test_matchFinger : decoded .matchFinger q7 6 = some (.matched ⟨true, 7, 0x5A⟩) := by decide
/-- W8. -/
theorem test_matchFinger_short : stopOf (exec .matchFinger (doneOk 5 (during .matchFinger .done (received q8 base)))) =
    some (.inr .payloadTooShort) := by decide
/-- W9, S2. -/
theorem test_deleteFingerprint : latched (.deleteFingerprint 0x0042) = some (0x0131, [0x00, 0x00, 0x42, 0x00, 0x00]) := by
  decide
/-- D5v and S2. -/
theorem test_deleteFingerprint_error : ask (fun t => t.fg.result)
    (exec (.deleteFingerprint 0x0042) (during (.deleteFingerprint 0x0042) .parse (received q2 base))) =
      some ⟨.moduleError, 0x17⟩ := by decide
/-- W11. -/
theorem test_deleteAllFingerprints : latched .deleteAllFingerprints = some (0x0131, [0x01, 0x00, 0x00, 0x00, 0x00]) := by
  decide
/-- W12. -/
theorem test_getFingerprintCount : decoded .getFingerprintCount q5 2 = some (.count 3) := by decide
/-- W14. -/
theorem test_setPassword_flash : latched (.setPassword 0x12345678 true) = some (0x0305, [0x12, 0x34, 0x56, 0x78]) := by
  decide
/-- W15. -/
theorem test_setPassword_done : ask (fun t => t.pw) (exec (.setPassword 0x12345678 false)
    (doneOk 0 (during (.setPassword 0x12345678 false) .done base))) = some 0x12345678 := by decide
/-- W17. -/
theorem test_updateFeatureAfterMatch : latched (.updateFeatureAfterMatch 7) = some (0x0116, [0x00, 0x07]) := by decide
/-- W18. -/
theorem test_getSystemPolicy : decoded .getSystemPolicy q6 4 = some (.policy ⟨true, false, true⟩) := by decide
/-- W21. -/
theorem test_enterSleepMode : latched (.enterSleepMode false) = some (0xABCD, [0x00]) := by decide
/-- W22. -/
theorem test_setLedControl : latched (.setLedControl ⟨1, 2, 3, 4, 5⟩) =
    some (0xABCE, [0x01, 0x02, 0x03, 0x04, 0x05]) := by decide
/-- W23, with a session active. -/
theorem test_setMatchCallback : ask (fun t => t.cbMatch)
    (exec (.setMatchCallback (some 9)) { base with op := .asyncMatch }) = some (some 9) := by decide
theorem test_setEnrollProgressCallback : ask (fun t => (t.cbMatch, t.cbProgress, t.cbComplete))
    (exec (.setEnrollProgressCallback (some 9)) base) = some (none, some 9, none) := by decide
theorem test_setEnrollCompleteCallback : ask (fun t => (t.cbMatch, t.cbProgress, t.cbComplete))
    (exec (.setEnrollCompleteCallback (some 9)) base) = some (none, none, some 9) := by decide

/-! ### The enrollment (2.7) -/

/-- AUTO_ENROLL with a callback operand. -/
def enroll : Instr := .autoEnroll 5 6 (some 9)

/-- B15. -/
theorem test_autoEnroll_request : latched enroll = some (0x0118, [0x01, 0x06, 0x00, 0x05]) := by decide
/-- E3: the callback with the decoded step, and the loop goes on. -/
theorem test_autoEnroll_step : ask (fun t => (t.invoked, t.fg.phase)) (exec enroll (during enroll .parse (received e3 base))) =
    some ([⟨.operand, 9, .enroll ⟨false, 3, 50, 5, 0⟩⟩], .arm) := by decide

/-! ### The asynchronous session (2.8) -/

/-- A1. -/
theorem test_startAsyncMatch : ask (fun t => (t.op, t.fg.phase))
    (exec .startAsyncMatch (during .startAsyncMatch .check base)) = some (.asyncMatch, .arm) := by decide
/-- A6. -/
theorem test_startAsyncMatch_receiveError : ask (fun t => (t.op, t.fg.result))
    (exec .startAsyncMatch (answers [false] (during .startAsyncMatch .arm { base with op := .asyncMatch }))) =
      some (.none, ⟨.receiveError, 0⟩) := by decide
/-- A8. -/
theorem test_startAsyncEnroll : latched (.startAsyncEnroll 5 6) = some (0x0118, [0x01, 0x06, 0x00, 0x05]) := by decide
/-- A3. -/
theorem test_match_notification : ask (fun t => (t.invoked, t.op))
    (exec (.onUartReceive 27) (notified q8 { base with op := .asyncMatch, cbMatch := some 9 })) =
      some ([⟨.onMatch, 9, .matched ⟨true, 7, 0x5A⟩⟩], .none) := by decide
/-- A12. -/
theorem test_enroll_notification_error : ask (fun t => (t.invoked, t.op))
    (exec (.onUartReceive 22) (notified q12 { base with op := .asyncEnroll, cbProgress := some 1, cbComplete := some 2 })) =
      some ([⟨.onProgress, 1, .enroll ⟨true, 0, 0, 0, 0x0B⟩⟩, ⟨.onComplete, 2, .enroll ⟨true, 0, 0, 0, 0x0B⟩⟩], .none) := by
  decide

/-! ### Callbacks (R255, R260), priority (R293) and the end of a run (R325) -/

/-- What the host has been returned and has seen invoked, and the session. -/
def seen (r : Res) : Option (List Returned × List Invocation × Session) := ask (fun t => (t.results, t.invoked, t.op)) r

/-- R260 (d), A3: INIT called from inside the match callback gets `Busy`. -/
theorem test_init_in_callback : seen (exec (.onUartReceive 27) (notified q8
    { base with op := .asyncMatch, cbMatch := some 9, bodies := [⟨[.init], true⟩] })) =
      some ([⟨some ⟨.busy, 0⟩, .nothing⟩], [⟨.onMatch, 9, .matched ⟨true, 7, 0x5A⟩⟩], .none) := by decide
/-- R260: a completion callback set from inside the progress callback is the one invoked (R335). -/
theorem test_setter_in_callback : seen (exec (.onUartReceive 22) (notified q12 { base with
    op := .asyncEnroll, cbProgress := some 1, bodies := [⟨[.setEnrollCompleteCallback (some 2)], true⟩] })) =
      some ([⟨none, .nothing⟩], [⟨.onProgress, 1, .enroll ⟨true, 0, 0, 0, 0x0B⟩⟩,
        ⟨.onComplete, 2, .enroll ⟨true, 0, 0, 0, 0x0B⟩⟩], .none) := by decide
/-- R293 (d): an issued ON_TRANSMIT_COMPLETE waits for a pending receive-complete. -/
theorem test_issued_transmit_complete_waits : ask (fun t => (t.rdy, t.pend, t.script))
    (step { base with script := [.issue .opsel [0x19]], pend := ⟨some 22, true⟩ }) =
      some (true, ⟨none, true⟩, [.issue .opsel [0x19]]) := by decide
/-- R325: the burst is observed as it appears, and still is when the peer has taken it. -/
theorem test_sent_is_kept :
    ask (fun t => (t.wireOut, t.sent)) (step { base with script := [.peerTake], wireOut := [b1], sent := [b1] }) =
      some ([], [b1]) ∧
    ask (fun t => t.sent)
      (step { base with script := [.txe], tx := Memory.writeBytes [] 0 b1, txBusy := true, txLen := 18 }) =
        some [b1] := by decide
/-- R325: a run is not over while the host has an operation to call. -/
theorem test_quiescent : State.quiescent base = true ∧
    State.quiescent { base with script := [.issue .opsel [0x30]] } = false ∧
    State.quiescent { base with script := [.tick, .peerSend q1] } = true := by decide

/-! ### The frames as instructions -/

theorem test_cmdHeartbeat : latched .cmdHeartbeat = some (0x0303, []) := by decide
theorem test_cmdAutoEnroll : latched (.cmdAutoEnroll 6 5) = some (0x0118, [0x01, 0x06, 0x00, 0x05]) := by decide
theorem test_cmdMatchSync : decoded .cmdMatchSync q7 6 = some (.matched ⟨true, 7, 0x5A⟩) := by decide
theorem test_cmdMatchAsync : latched .cmdMatchAsync = some (0x0121, []) := by decide
theorem test_cmdDeleteOne : latched (.cmdDeleteOne 0xFFFF) = some (0x0131, [0x00, 0xFF, 0xFF, 0x00, 0x00]) := by decide
theorem test_cmdDeleteAll : latched .cmdDeleteAll = some (0x0131, [0x01, 0x00, 0x00, 0x00, 0x00]) := by decide
theorem test_cmdFingerStatus : decoded .cmdFingerStatus q3 1 = some (.pressed true) := by decide
theorem test_cmdCount : decoded .cmdCount q5 2 = some (.count 3) := by decide
theorem test_cmdSetPasswordFlash : latched (.cmdSetPasswordFlash 0x12345678) =
    some (0x0305, [0x12, 0x34, 0x56, 0x78]) := by decide
theorem test_cmdSetPasswordTemp : latched (.cmdSetPasswordTemp 0x12345678) =
    some (0x0201, [0x12, 0x34, 0x56, 0x78]) := by decide
theorem test_cmdUpdateFeature : latched (.cmdUpdateFeature 7) = some (0x0116, [0x00, 0x07]) := by decide
theorem test_cmdGetPolicy : decoded .cmdGetPolicy q6 4 = some (.policy ⟨true, false, true⟩) := by decide
theorem test_cmdEnterSleep : latched (.cmdEnterSleep true) = some (0xABCD, [0x01]) := by decide
theorem test_cmdSetLed : latched (.cmdSetLed ⟨1, 2, 3, 4, 5⟩) = some (0xABCE, [0x01, 0x02, 0x03, 0x04, 0x05]) := by
  decide
/-- Q2. -/
theorem test_response : ask (fun t => t.wireIn) (exec (.response 0x0131 0 0x17 []) base) = some [q2] := by decide

/-! ### Witnesses: for each obligation a state and operands that meet its hypotheses, one for each clause, at the
boundary where there is one -/

/-- Any payload of 65529 bytes is too long for the length field, and one of 65524 fits a reply's. -/
theorem long_payload (n : Nat) (v : Byte) : (List.replicate n v).length = n := List.length_replicate

theorem witness_ChecksumReturnsNegatedByteSum : base.fg.phase = .idle := by decide
theorem witness_SpanAndChecksumSumToZero :
    ((([0xFF] : List Byte).map BitVec.toNat).sum + (0x01 : Byte).toNat) % 256 = 0 := by decide
theorem witness_BuildFrameWritesTheFrame : base.fg.phase = .idle ∧
    18 + (List.replicate 46 (0 : Byte)).length ≤ base.cfg.txCap ∧ 7 + (List.replicate 46 (0 : Byte)).length ≤ 65535 := by
  decide
theorem witness_BuildFrameRefusesOversizedPayload : base.fg.phase = .idle ∧
    base.cfg.txCap < 18 + (List.replicate 47 (0 : Byte)).length := by decide
theorem witness_BuildFrameRefusesOversizedPayload_length : base.fg.phase = .idle ∧
    65535 < 7 + (List.replicate 65529 (0 : Byte)).length := by
  rw [long_payload]; decide
/-- The clause about the operations that build: a payload of 47 bytes latched by SEND_AND_AWAIT. -/
theorem witness_BuildFrameRefusesOversizedPayload_send : usesLine d = true ∧
    ({ base with fg := { base.fg with phase := .send, instr := some d, payload := List.replicate 47 0 } } : State).fg.phase =
      .send ∧ base.cfg.txCap < 18 + (List.replicate 47 (0 : Byte)).length := by decide
theorem witness_ParseFrameMakesTheSixChecks : (received q1 base).fg.phase = .idle ∧
    (received q1 base).rxsz.toNat ≤ (received q1 base).cfg.rxCap ∧ (received q1 base).cfg.minAppLen = 10 ∧
    (received q1 base).rxBytes 0 8 = magic ∧ cks ((received q1 base).rxBytes 0 10) = (received q1 base).rxByte 10 ∧
    cks ((received q1 base).rxBytes 11 10) = (received q1 base).rxByte 21 := by decide
theorem witness_ParseFrameMakesTheSixChecks_fails : (received [] base).fg.phase = .idle ∧
    (received [] base).rxsz.toNat ≤ (received [] base).cfg.rxCap ∧ ¬ 11 ≤ (received [] base).rxsz.toNat := by decide
theorem witness_ShortApplicationLengths_nine :
    claimedLen (M ++ [0x00, 0x09, 0x84, 0, 0, 0, 0, 0x03, 0x03, 0, 0, 0xFA]) ≤ 9 := by decide
theorem witness_ShortApplicationLengths_ten : claimedLen q29 = 10 ∧ 21 ≤ q29.length ∧ slice q29 0 8 = magic ∧
    cks (slice q29 0 10) = byteAt q29 10 ∧ cks (slice q29 11 9) = byteAt q29 20 := by decide
theorem witness_ParseRecoversFrames_reply : 11 + (List.replicate 65524 (0 : Byte)).length ≤ 65535 := by
  rw [long_payload]
theorem witness_ParseRecoversFrames_request : 7 + (List.replicate 65528 (0 : Byte)).length ≤ 65535 ∧
    4 ≤ (List.replicate 65528 (0 : Byte)).length := by
  rw [long_payload]; decide
theorem witness_ParseRecoversFrames_three : ([1, 2, 3] : List Byte).length = 3 ∧ ([1, 2] : List Byte).length ≤ 2 := by
  decide
theorem witness_SingleBitFlipIsFound : parseFrame 10 q1 ≠ .invalid ∧ 21 < 11 + claimedLen q1 ∧ 7 < 8 ∧
    11 + claimedLen q1 ≤ 22 := by decide
theorem witness_StartReceiveArmsOnTrue : (answers [true] base).fg.phase = .idle ∧
    (answers [true] base).answers = true :: [] ∧ base.fg.phase = .idle ∧ base.answers = [] := by decide
theorem witness_TransmitHandsOverTheSpan_true : (answers [true] base).fg.phase = .idle ∧
    64 ≤ (answers [true] base).cfg.txCap ∧ (answers [true] base).answers = true :: [] := by decide
theorem witness_TransmitHandsOverTheSpan_false : (answers [false] base).fg.phase = .idle ∧
    64 ≤ (answers [false] base).cfg.txCap ∧ (answers [false] base).answers = false :: [] := by decide
theorem witness_TransmitHandsOverTheSpan_free : base.fg.phase = .idle ∧ 64 ≤ base.cfg.txCap ∧ base.answers = [] ∧
    base.cfg.txCap < 65 := by decide
theorem witness_AbortDisarmsAndFreesRx : { base with rxArmed := true }.fg.phase = .idle := by decide
theorem witness_DelaySuspendsTheForeground_call : base.fg.phase = .idle := by decide

/-- A state with a script. -/
def scripted (l : List Event) (s : State) : State := { s with script := l }

/-- DELAY_MS with some milliseconds left. -/
def sleeping (n : Nat) : State :=
  { base with fg := { base.fg with phase := .done, instr := some (.delayMs 10), sleep := n } }

theorem witness_DelaySuspendsTheForeground_tick : (scripted [.tick] (sleeping 1)).script = .tick :: [] := by decide
theorem witness_DelaySuspendsTheForeground_sleeps : (scripted [.fg] (sleeping 1)).script = .fg :: [] ∧
    (scripted [.fg] (sleeping 1)).hung = false ∧ (scripted [.fg] (sleeping 1)).pend = ⟨none, false⟩ ∧
    (scripted [.fg] (sleeping 1)).fg.phase ≠ .idle ∧ 0 < (scripted [.fg] (sleeping 1)).fg.sleep := by decide
theorem witness_DelaySuspendsTheForeground_returns : (sleeping 0).fg.phase = .done ∧
    (sleeping 0).fg.instr = some (.delayMs 10) ∧ (sleeping 0).fg.sleep = 0 := by decide
theorem witness_TransmitCompleteChangesNothing :
    ({ base with script := [.irq], pend := ⟨none, true⟩ } : State).script = .irq :: [] ∧
    ({ base with script := [.irq], pend := ⟨none, true⟩ } : State).hung = false ∧
    ({ base with script := [.irq], pend := ⟨none, true⟩ } : State).pend = ⟨none, true⟩ := by decide

/-- A burst waits for the receive engine. -/
def arriving (armed : Bool) (b : Burst) : State :=
  { base with script := [.rxe], wireIn := [b], rxArmed := armed }

theorem witness_ReceiveEngineDeliversOneBurst : (arriving true q1).script = .rxe :: [] ∧
    (arriving true q1).wireIn = q1 :: [] ∧ (arriving true q1).cfg.rxCap ≤ 65535 ∧ (arriving true q1).rxArmed = true := by
  decide
theorem witness_ReceiveEngineDeliversOneBurst_unarmed : (arriving false q1).script = .rxe :: [] ∧
    (arriving false q1).wireIn = q1 :: [] ∧ (arriving false q1).cfg.rxCap ≤ 65535 ∧
    (arriving false q1).rxArmed = false := by decide

/-- A span handed to the transmit engine. -/
def leaving (busy : Bool) (n : Nat) : State :=
  { base with script := [.txe], tx := Memory.writeBytes [] 0 b1, txBusy := busy, txLen := n }

theorem witness_TransmitEngineSendsTheSpan : (leaving true 1).script = .txe :: [] ∧ 0 < (leaving true 1).txLen ∧
    (leaving true 1).txBusy = true := by decide
theorem witness_TransmitEngineSendsTheSpan_not_busy : (leaving false 18).script = .txe :: [] ∧
    0 < (leaving false 18).txLen ∧ (leaving false 18).txBusy = false := by decide
theorem witness_TransmitEngineSendsTheSpan_empty : (leaving true 0).script = .txe :: [] ∧ (leaving true 0).txBusy = true ∧
    (leaving true 0).txLen = 0 := by decide
theorem witness_TickIsCountedAndRead :
    ({ base with script := [.tick], tick := 0xFFFFFFFF } : State).script = .tick :: [] ∧
    ({ base with script := [.tick], tick := 0xFFFFFFFF } : State).tick < 2 ^ 32 ∧ base.fg.phase = .idle := by decide
theorem witness_PeerTakesAndSends : ({ base with script := [.peerTake], wireOut := [b1] } : State).script = .peerTake :: [] ∧
    ({ base with script := [.peerTake], wireOut := [b1] } : State).wireOut = b1 :: [] ∧
    (scripted [.peerSend q1] base).script = .peerSend q1 :: [] ∧ q1 ≠ [] ∧ 11 + ([] : List Byte).length ≤ 65535 := by
  decide
theorem witness_PeerTakesAndSends_too_long : 65535 < 11 + (List.replicate 65525 (0 : Byte)).length := by
  rw [long_payload]; decide
theorem witness_CallLatchesTheRequest : exchangeRequest base.cfg .init = some (0x0303, []) ∧ base.fg.phase = .idle := by
  decide
theorem witness_BusyHasNoSideEffect : usesLine .init = true ∧
    (during .init .check { base with op := .asyncMatch }).fg.phase = .check ∧
    (during .init .check { base with op := .asyncMatch }).fg.instr = some .init ∧
    (during .init .check { base with op := .asyncMatch }).op ≠ .none := by decide
theorem witness_ArmClearsReadyAndArms : (exchangeRequest base.cfg .init).isSome = true ∧
    (answers [true] (during .init .arm base)).fg.phase = .arm ∧
    (answers [true] (during .init .arm base)).fg.instr = some .init ∧
    (answers [true] (during .init .arm base)).answers = true :: [] ∧
    (answers [false] (during .init .arm base)).answers = false :: [] := by decide

/-- Step `Send` with the longest payload that fits. -/
def sending (i : Instr) (a : Bool) : State :=
  { base with answers := [a],
              fg := { base.fg with phase := .send, instr := some i, payload := List.replicate 46 0 } }

theorem witness_SendBuildsAndTransmits : (exchangeRequest (sending .init true).cfg .init).isSome = true ∧
    (sending .init true).fg.phase = .send ∧ (sending .init true).fg.instr = some .init ∧
    18 + (sending .init true).fg.payload.length ≤ (sending .init true).cfg.txCap ∧
    7 + (sending .init true).fg.payload.length ≤ 65535 ∧ (sending .init true).answers = true :: [] ∧
    (sending .init false).answers = false :: [] := by decide
theorem witness_WaitLooksAtFlagThenClock_flag : isSync .init = true ∧ (waiting 1000 3001 true).fg.phase = .wait ∧
    (waiting 1000 3001 true).fg.instr = some .init ∧ (waiting 1000 3001 true).fg.t0 < 2 ^ 32 ∧
    (waiting 1000 3001 true).tick < 2 ^ 32 ∧ 2001 < 2 ^ 32 ∧
    ((waiting 1000 3001 true).fg.t0 + 2001) % 2 ^ 32 = (waiting 1000 3001 true).tick ∧
    (waiting 1000 3001 true).rdy = true := by decide
theorem witness_WaitLooksAtFlagThenClock_over : isSync .init = true ∧ (waiting 1000 3001 false).fg.phase = .wait ∧
    (waiting 1000 3001 false).fg.instr = some .init ∧ (waiting 1000 3001 false).fg.t0 < 2 ^ 32 ∧
    (waiting 1000 3001 false).tick < 2 ^ 32 ∧
    ((waiting 1000 3001 false).fg.t0 + 2001) % 2 ^ 32 = (waiting 1000 3001 false).tick ∧
    (waiting 1000 3001 false).rdy = false ∧ (waiting 1000 3001 false).fg.timeout < 2001 := by decide
theorem witness_WaitLooksAtFlagThenClock_within : isSync .init = true ∧ (waiting 1000 3000 false).fg.phase = .wait ∧
    (waiting 1000 3000 false).fg.instr = some .init ∧ (waiting 1000 3000 false).fg.t0 < 2 ^ 32 ∧
    (waiting 1000 3000 false).tick < 2 ^ 32 ∧
    ((waiting 1000 3000 false).fg.t0 + 2000) % 2 ^ 32 = (waiting 1000 3000 false).tick ∧
    (waiting 1000 3000 false).rdy = false ∧ 2000 ≤ (waiting 1000 3000 false).fg.timeout := by decide
theorem witness_AbortStepReturnsTimeout : isSync .init = true ∧ (during .init .abort base).fg.phase = .abort ∧
    (during .init .abort base).fg.instr = some .init := by decide

/-- Step `Parse` of an operation with a frame received. -/
def parsing (i : Instr) (bs : List Byte) : State := received bs (during i .parse base)

theorem witness_ParseStepGivesTheStatus_invalid : (exchangeRequest (parsing .init q19).cfg .init).isSome = true ∧
    (parsing .init q19).fg.phase = .parse ∧ (parsing .init q19).fg.instr = some .init ∧
    (parsing .init q19).rxsz.toNat ≤ (parsing .init q19).cfg.rxCap ∧
    parseFrame (parsing .init q19).cfg.minAppLen ((parsing .init q19).rxBytes 0 (parsing .init q19).rxsz.toNat) =
      .invalid := by decide
theorem witness_ParseStepGivesTheStatus_valid : (parsing .init q2).fg.phase = .parse ∧
    (parsing .init q2).rxsz.toNat ≤ (parsing .init q2).cfg.rxCap ∧
    parseFrame (parsing .init q2).cfg.minAppLen ((parsing .init q2).rxBytes 0 (parsing .init q2).rxsz.toNat) =
      .valid 0x0131 0x17 ⟨21, 0⟩ := by decide
theorem witness_CallReachesWaitWithItsFrame : exchangeRequest base.cfg (.sendAndAwait 1 2 (List.replicate 46 0)) =
    some (1, List.replicate 46 0) ∧ (answers [true, true] base).fg.phase = .idle ∧ (answers [true, true] base).op = .none ∧
    (answers [true, true] base).answers = true :: true :: [] ∧
    18 + (List.replicate 46 (0 : Byte)).length ≤ (answers [true, true] base).cfg.txCap ∧
    7 + (List.replicate 46 (0 : Byte)).length ≤ 65535 := by decide

/-- An operation waiting with a flagged reply. -/
def flagged (i : Instr) (bs : List Byte) : State := received bs (during i .wait { base with rdy := true })

theorem witness_PlainReplyReturnsTheStatus : isPlain .init = true ∧ (flagged .init q1).fg.phase = .wait ∧
    (flagged .init q1).fg.instr = some .init ∧ (flagged .init q1).rdy = true ∧ (flagged .init q1).cfg.minAppLen ≤ 11 ∧
    22 + ([] : List Byte).length ≤ (flagged .init q1).cfg.rxCap ∧ (flagged .init q1).rxsz.toNat = 22 ∧
    (flagged .init q1).rxBytes 0 22 = inFrame 0 0x0303 0 [] := by decide
theorem witness_SendAndAwaitReturnsTheSpan : (flagged d q5).fg.phase = .wait ∧ (flagged d q5).fg.instr = some d ∧
    (flagged d q5).rdy = true ∧ (flagged d q5).cfg.minAppLen ≤ 11 ∧
    22 + ([0, 3] : List Byte).length ≤ (flagged d q5).cfg.rxCap ∧ (flagged d q5).rxsz.toNat = 24 ∧
    (flagged d q5).rxBytes 0 24 = inFrame 0 0x0203 0 [0, 3] := by decide

/-- An operation done with `OK` and a payload of some length. -/
def finished (i : Instr) (bs : List Byte) (n : Nat) : State := doneOk n (during i .done (received bs base))

theorem witness_FingerStatusAndCountAreDecoded_pressed : (finished .isFingerPressed q3 1).fg.phase = .done ∧
    (finished .isFingerPressed q3 1).fg.instr = some .isFingerPressed ∧
    (finished .isFingerPressed q3 1).fg.result.status = .ok ∧
    (finished .isFingerPressed q3 1).fg.span = some ⟨21, 1⟩ ∧ 21 + 1 ≤ (finished .isFingerPressed q3 1).cfg.rxCap := by
  decide
theorem witness_FingerStatusAndCountAreDecoded_count : (finished .cmdCount q5 2).fg.phase = .done ∧
    (finished .cmdCount q5 2).fg.instr = some .cmdCount ∧ (finished .cmdCount q5 2).fg.result.status = .ok ∧
    (finished .cmdCount q5 2).fg.span = some ⟨21, 2⟩ ∧ 21 + 2 ≤ (finished .cmdCount q5 2).cfg.rxCap := by decide
theorem witness_MatchIsDecodedFromOffsetOne : (finished .matchFinger q7 6).fg.phase = .done ∧
    (finished .matchFinger q7 6).fg.instr = some .matchFinger ∧ (finished .matchFinger q7 6).fg.result.status = .ok ∧
    (finished .matchFinger q7 6).fg.span = some ⟨21, 6⟩ ∧ 21 + 6 ≤ (finished .matchFinger q7 6).cfg.rxCap ∧
    (finished .matchFinger q7 6).rxByte (21 + 1) = 1 := by decide
/-- W6 and W7: the other two kinds of flag byte. -/
theorem witness_MatchIsDecodedFromOffsetOne_flags :
    (finished .matchFinger (List.replicate 28 0) 6).rxByte (21 + 1) = 0 ∧
    (finished .matchFinger (List.replicate 28 2) 6).rxByte (21 + 1) ≠ 0 ∧
    (finished .matchFinger (List.replicate 28 2) 6).rxByte (21 + 1) ≠ 1 ∧
    (finished .matchFinger (List.replicate 28 2) 6).fg.span = some ⟨21, 6⟩ := by decide
theorem witness_PolicyIsDecoded : (finished .cmdGetPolicy q6 4).fg.phase = .done ∧
    (finished .cmdGetPolicy q6 4).fg.instr = some .cmdGetPolicy ∧ (finished .cmdGetPolicy q6 4).fg.result.status = .ok ∧
    (finished .cmdGetPolicy q6 4).fg.span = some ⟨21, 4⟩ ∧ 21 + 4 ≤ (finished .cmdGetPolicy q6 4).cfg.rxCap := by decide
theorem witness_ShortReplyIsRefused : decoderNeed .matchFinger = some 6 ∧ (finished .matchFinger q8 5).fg.phase = .done ∧
    (finished .matchFinger q8 5).fg.instr = some .matchFinger ∧ (finished .matchFinger q8 5).fg.result.status = .ok ∧
    (finished .matchFinger q8 5).fg.span = some ⟨21, 5⟩ ∧ 5 < 6 := by decide

theorem witness_ShortReplyIsRefused_enrollment : (enrollOperands enroll).isSome = true ∧
    (parsing enroll e16).fg.phase = .parse ∧ (parsing enroll e16).fg.instr = some enroll ∧
    (parsing enroll e16).rxsz.toNat ≤ (parsing enroll e16).cfg.rxCap ∧
    parseFrame (parsing enroll e16).cfg.minAppLen ((parsing enroll e16).rxBytes 0 (parsing enroll e16).rxsz.toNat) =
      .valid 0x0118 0 ⟨21, 3⟩ := by decide
theorem witness_ShortReplyIsRefused_session : (notified e16 { base with op := .asyncEnroll }).op = .asyncEnroll ∧
    (notified e16 { base with op := .asyncEnroll }).pend.rx = some 25 ∧
    (25 : Half).toNat ≤ (notified e16 { base with op := .asyncEnroll }).cfg.rxCap ∧
    parseFrame (notified e16 { base with op := .asyncEnroll }).cfg.minAppLen
      ((notified e16 { base with op := .asyncEnroll }).rxBytes 0 (25 : Half).toNat) = .valid 0x0118 0 ⟨21, 3⟩ := by decide

/-- An operation done with `Timeout`. -/
def failed (i : Instr) : State :=
  { base with fg := { base.fg with phase := .done, instr := some i, result := ⟨.timeout, 0⟩ } }

theorem witness_FailedWrapperReturnsItsStatus : (exchangeRequest (failed .matchFinger).cfg .matchFinger).isSome = true ∧
    (failed .matchFinger).fg.phase = .done ∧ (failed .matchFinger).fg.instr = some .matchFinger ∧
    (failed .matchFinger).fg.result.status ≠ .ok := by decide
theorem witness_PasswordChangesOnlyOnOk : newPassword (.cmdSetPasswordTemp 7) = some 7 ∧
    (failed (.cmdSetPasswordTemp 7)).fg.phase = .done ∧
    (failed (.cmdSetPasswordTemp 7)).fg.instr = some (.cmdSetPasswordTemp 7) ∧
    (finished (.cmdSetPasswordTemp 7) q1 0).fg.phase = .done ∧
    (finished (.cmdSetPasswordTemp 7) q1 0).fg.instr = some (.cmdSetPasswordTemp 7) ∧
    (finished (.cmdSetPasswordTemp 7) q1 0).fg.result.status = .ok := by decide
theorem witness_SettersWriteTheirRegister : ({ base with op := .asyncMatch } : State).fg.phase = .idle := by decide
theorem witness_EnrollSendsBeforeItArms : enrollOperands enroll = some (5, 6, some 9) ∧
    (answers [true] base).fg.phase = .idle ∧ (answers [true] base).op = .none ∧
    (answers [true] base).answers = true :: [] ∧ 22 ≤ (answers [true] base).cfg.txCap := by decide
theorem witness_EnrollArmRestartsTheWindow : (enrollOperands enroll).isSome = true ∧
    (answers [true] (during enroll .arm base)).fg.phase = .arm ∧
    (answers [true] (during enroll .arm base)).fg.instr = some enroll ∧
    (answers [true] (during enroll .arm base)).answers = true :: [] ∧
    (answers [false] (during enroll .arm base)).answers = false :: [] := by decide
theorem witness_EnrollStepIsDecodedAndReported : enrollOperands enroll = some (5, 6, some 9) ∧
    (parsing enroll e3).fg.phase = .parse ∧ (parsing enroll e3).fg.instr = some enroll ∧
    (parsing enroll e3).rxsz.toNat ≤ (parsing enroll e3).cfg.rxCap ∧
    parseFrame (parsing enroll e3).cfg.minAppLen ((parsing enroll e3).rxBytes 0 (parsing enroll e3).rxsz.toNat) =
      .valid 0x0118 0 ⟨21, 4⟩ ∧ 21 + 4 ≤ (parsing enroll e3).cfg.rxCap ∧ (parsing enroll e3).rxByte 21 ≠ 0xFF ∧
    (parsing enroll e7).rxByte 21 = 0xFF := by decide
theorem witness_EnrollEndsWithItsStatus : (enrollOperands enroll).isSome = true ∧
    (parsing enroll q12).fg.instr = some enroll ∧ (parsing enroll q12).fg.phase = .parse ∧
    (parsing enroll q12).rxsz.toNat ≤ (parsing enroll q12).cfg.rxCap ∧
    parseFrame (parsing enroll q12).cfg.minAppLen ((parsing enroll q12).rxBytes 0 (parsing enroll q12).rxsz.toNat) =
      .valid 0x0118 0x0B ⟨21, 0⟩ ∧
    parseFrame (parsing enroll q19).cfg.minAppLen ((parsing enroll q19).rxBytes 0 (parsing enroll q19).rxsz.toNat) =
      .invalid ∧ (failed enroll).fg.phase = .done ∧ (failed enroll).fg.instr = some enroll := by decide
theorem witness_StartOpensTheSession : startRequest (.startAsyncEnroll 5 6) = some (.asyncEnroll, 0x0118, [1, 6, 0, 5]) ∧
    (answers [true, true] base).fg.phase = .idle ∧ (answers [true, true] base).op = .none ∧
    (answers [true, true] base).answers = true :: true :: [] ∧ 22 ≤ (answers [true, true] base).cfg.txCap := by decide
theorem witness_StartRollsBack : isStart .startAsyncMatch = true ∧
    (answers [false] (during .startAsyncMatch .arm base)).fg.instr = some .startAsyncMatch ∧
    (answers [false] (during .startAsyncMatch .arm base)).answers = false :: [] ∧
    (answers [false] (during .startAsyncMatch .arm base)).fg.phase = .arm ∧
    (sending .startAsyncMatch false).fg.instr = some .startAsyncMatch ∧
    (sending .startAsyncMatch false).answers = false :: [] ∧ (sending .startAsyncMatch false).fg.phase = .send ∧
    18 + (sending .startAsyncMatch false).fg.payload.length ≤ (sending .startAsyncMatch false).cfg.txCap ∧
    7 + (sending .startAsyncMatch false).fg.payload.length ≤ 65535 := by decide
theorem witness_NotificationSetsReady : (notified q1 base).op = .none ∧ (notified q1 base).pend.rx = some 22 ∧
    (22 : Half).toNat ≤ (notified q1 base).cfg.rxCap := by decide

/-- A session with every callback registered, the callbacks returning, and a frame notified. -/
def session (x : Session) (bs : List Byte) (l : List Bool) : State :=
  notified bs { base with op := x, cbMatch := some 9, cbProgress := some 1, cbComplete := some 2,
                          bodies := [⟨[], true⟩, ⟨[], true⟩], answers := l }

theorem witness_InvalidFrameEndsTheSession : (session .asyncMatch q19 []).op ≠ .none ∧
    (session .asyncMatch q19 []).pend.rx = some 22 ∧ (22 : Half).toNat ≤ (session .asyncMatch q19 []).cfg.rxCap ∧
    parseFrame (session .asyncMatch q19 []).cfg.minAppLen
      ((session .asyncMatch q19 []).rxBytes 0 (22 : Half).toNat) = .invalid := by decide
theorem witness_MatchReplyInvokesTheCallbackOnce : (session .asyncMatch q8 []).op = .asyncMatch ∧
    (session .asyncMatch q8 []).pend.rx = some 27 ∧ (27 : Half).toNat ≤ (session .asyncMatch q8 []).cfg.rxCap ∧
    (session .asyncMatch q8 []).cbMatch = some 9 ∧ (session .asyncMatch q8 []).bodies = ⟨[], true⟩ :: [⟨[], true⟩] ∧
    parseFrame (session .asyncMatch q8 []).cfg.minAppLen
      ((session .asyncMatch q8 []).rxBytes 0 (27 : Half).toNat) = .valid 0x0121 0 ⟨21, 5⟩ ∧
    21 + 5 ≤ (session .asyncMatch q8 []).cfg.rxCap ∧ (session .asyncMatch q8 []).rxByte 21 = 1 := by decide
/-- A5: the clause in which nothing constrains the result. -/
theorem witness_MatchReplyInvokesTheCallbackOnce_error : (session .asyncMatch a5 []).op = .asyncMatch ∧
    (session .asyncMatch a5 []).pend.rx = some 22 ∧ (session .asyncMatch a5 []).cbMatch = some 9 ∧
    (session .asyncMatch a5 []).bodies = ⟨[], true⟩ :: [⟨[], true⟩] ∧
    parseFrame (session .asyncMatch a5 []).cfg.minAppLen
      ((session .asyncMatch a5 []).rxBytes 0 (22 : Half).toNat) = .valid 0x0121 8 ⟨21, 0⟩ ∧
    21 + 5 ≤ (session .asyncMatch a5 []).cfg.rxCap := by decide
theorem witness_EnrollReplyReArmsOrEnds : (session .asyncEnroll e3 [true]).op = .asyncEnroll ∧
    (session .asyncEnroll e3 [true]).pend.rx = some 26 ∧
    (26 : Half).toNat ≤ (session .asyncEnroll e3 [true]).cfg.rxCap ∧
    (session .asyncEnroll e3 [true]).cbProgress = some 1 ∧ (session .asyncEnroll e3 [true]).bodies = ⟨[], true⟩ :: [⟨[], true⟩] ∧
    parseFrame (session .asyncEnroll e3 [true]).cfg.minAppLen
      ((session .asyncEnroll e3 [true]).rxBytes 0 (26 : Half).toNat) = .valid 0x0118 0 ⟨21, 4⟩ ∧
    21 + 4 ≤ (session .asyncEnroll e3 [true]).cfg.rxCap ∧ (session .asyncEnroll e3 [true]).rxByte 21 ≠ 0xFF ∧
    (session .asyncEnroll e3 [true]).answers = true :: [] := by decide
theorem witness_EnrollReplyCompletes : (session .asyncEnroll e7 []).op = .asyncEnroll ∧
    (session .asyncEnroll e7 []).pend.rx = some 26 ∧ (26 : Half).toNat ≤ (session .asyncEnroll e7 []).cfg.rxCap ∧
    (session .asyncEnroll e7 []).cbProgress = some 1 ∧ (session .asyncEnroll e7 []).cbComplete = some 2 ∧
    (session .asyncEnroll e7 []).bodies = ⟨[], true⟩ :: ⟨[], true⟩ :: [] ∧
    parseFrame (session .asyncEnroll e7 []).cfg.minAppLen
      ((session .asyncEnroll e7 []).rxBytes 0 (26 : Half).toNat) = .valid 0x0118 0 ⟨21, 4⟩ ∧
    21 + 4 ≤ (session .asyncEnroll e7 []).cfg.rxCap ∧ (session .asyncEnroll e7 []).rxByte 21 = 0xFF := by decide
/-- A12. -/
theorem witness_EnrollReplyCompletes_error : (session .asyncEnroll q12 []).pend.rx = some 22 ∧
    (session .asyncEnroll q12 []).bodies = ⟨[], true⟩ :: ⟨[], true⟩ :: [] ∧
    parseFrame (session .asyncEnroll q12 []).cfg.minAppLen
      ((session .asyncEnroll q12 []).rxBytes 0 (22 : Half).toNat) = .valid 0x0118 0x0B ⟨21, 0⟩ := by decide

/-- A session with the given callbacks registered, and a frame notified; each coming callback has a body. -/
def sessionWith (x : Session) (m p c : Callback) (q : List CallbackBody) (bs : List Byte) (l : List Bool) : State :=
  notified bs { base with op := x, cbMatch := m, cbProgress := p, cbComplete := c, bodies := q, answers := l }

/-- The frame notified to a session, as the hypotheses about the asynchronous statements have it. -/
def notifies (s : State) (k : Half) (v : Verdict) : Bool :=
  decide (s.pend.rx = some k) && decide (k.toNat ≤ s.cfg.rxCap) &&
    decide (parseFrame s.cfg.minAppLen (s.rxBytes 0 k.toNat) = v)

/-- A callback that calls INIT and returns. -/
def callsInit : CallbackBody := ⟨[.init], true⟩

theorem witness_BusyHasNoSideEffect_match : usesLine .init = true ∧
    notifies (sessionWith .asyncMatch (some 9) none none [callsInit] q8 []) 27 (.valid 0x0121 0 ⟨21, 5⟩) = true ∧
    (sessionWith .asyncMatch (some 9) none none [callsInit] q8 []).bodies = ⟨[.init], true⟩ :: [] ∧
    (sessionWith .asyncMatch (some 9) none none [callsInit] q8 []).op = .asyncMatch ∧
    (sessionWith .asyncMatch (some 9) none none [callsInit] q8 []).cbMatch = some 9 ∧ 21 + 5 ≤ base.cfg.rxCap := by
  decide
theorem witness_BusyHasNoSideEffect_progress : usesLine .init = true ∧
    notifies (sessionWith .asyncEnroll none (some 1) none [callsInit] q12 []) 22 (.valid 0x0118 0x0B ⟨21, 0⟩) = true ∧
    (sessionWith .asyncEnroll none (some 1) none [callsInit] q12 []).bodies = ⟨[.init], true⟩ :: [] ∧
    (sessionWith .asyncEnroll none (some 1) none [callsInit] q12 []).op = .asyncEnroll ∧
    (sessionWith .asyncEnroll none (some 1) none [callsInit] q12 []).cbProgress = some 1 ∧
    (sessionWith .asyncEnroll none (some 1) none [callsInit] q12 []).cbComplete = none := by decide

/-- The match callback unset while the enroll registers are set. -/
theorem witness_UnsetCallbackIsSkipped_match :
    notifies (sessionWith .asyncMatch none (some 1) (some 2) [] a5 []) 22 (.valid 0x0121 8 ⟨21, 0⟩) = true ∧
    (sessionWith .asyncMatch none (some 1) (some 2) [] a5 []).op = .asyncMatch ∧
    (sessionWith .asyncMatch none (some 1) (some 2) [] a5 []).cbMatch = none ∧ 21 + 5 ≤ base.cfg.rxCap := by decide
/-- A step that is not the last, with the progress callback unset and the completion callback set. -/
theorem witness_UnsetCallbackIsSkipped_step :
    notifies (sessionWith .asyncEnroll none none (some 2) [] e3 [true]) 26 (.valid 0x0118 0 ⟨21, 4⟩) = true ∧
    (sessionWith .asyncEnroll none none (some 2) [] e3 [true]).op = .asyncEnroll ∧
    (sessionWith .asyncEnroll none none (some 2) [] e3 [true]).cbProgress = none ∧ 21 + 4 ≤ base.cfg.rxCap ∧
    (sessionWith .asyncEnroll none none (some 2) [] e3 [true]).rxByte 21 ≠ 0xFF ∧
    (sessionWith .asyncEnroll none none (some 2) [] e3 [true]).answers = true :: [] := by decide
/-- The end with neither callback, by an error. -/
theorem witness_UnsetCallbackIsSkipped_error :
    notifies (sessionWith .asyncEnroll none none none [] q12 []) 22 (.valid 0x0118 0x0B ⟨21, 0⟩) = true ∧
    (sessionWith .asyncEnroll none none none [] q12 []).op = .asyncEnroll ∧
    (sessionWith .asyncEnroll none none none [] q12 []).cbProgress = none ∧
    (sessionWith .asyncEnroll none none none [] q12 []).cbComplete = none ∧ (0x0B : Word) ≠ 0 := by decide
/-- The end with the completion callback alone, by the last step. -/
theorem witness_UnsetCallbackIsSkipped_complete :
    notifies (sessionWith .asyncEnroll none none (some 2) [⟨[], true⟩] e7 []) 26 (.valid 0x0118 0 ⟨21, 4⟩) = true ∧
    (sessionWith .asyncEnroll none none (some 2) [⟨[], true⟩] e7 []).op = .asyncEnroll ∧
    (sessionWith .asyncEnroll none none (some 2) [⟨[], true⟩] e7 []).cbProgress = none ∧
    (sessionWith .asyncEnroll none none (some 2) [⟨[], true⟩] e7 []).cbComplete = some 2 ∧
    (sessionWith .asyncEnroll none none (some 2) [⟨[], true⟩] e7 []).bodies = ⟨[], true⟩ :: [] ∧
    21 + 4 ≤ base.cfg.rxCap ∧
    (sessionWith .asyncEnroll none none (some 2) [⟨[], true⟩] e7 []).rxByte 21 = 0xFF := by decide
/-- The end with the progress callback alone, by the last step. -/
theorem witness_UnsetCallbackIsSkipped_progress :
    notifies (sessionWith .asyncEnroll none (some 1) none [⟨[], true⟩] e7 []) 26 (.valid 0x0118 0 ⟨21, 4⟩) = true ∧
    (sessionWith .asyncEnroll none (some 1) none [⟨[], true⟩] e7 []).op = .asyncEnroll ∧
    (sessionWith .asyncEnroll none (some 1) none [⟨[], true⟩] e7 []).cbProgress = some 1 ∧
    (sessionWith .asyncEnroll none (some 1) none [⟨[], true⟩] e7 []).cbComplete = none ∧
    (sessionWith .asyncEnroll none (some 1) none [⟨[], true⟩] e7 []).bodies = ⟨[], true⟩ :: [] ∧
    (sessionWith .asyncEnroll none (some 1) none [⟨[], true⟩] e7 []).rxByte 21 = 0xFF := by decide

/-- A callback that does not return, and one that waits a millisecond before it calls INIT. -/
def stops : CallbackBody := ⟨[], false⟩
def waits : CallbackBody := ⟨[.delayMs 1, .init], true⟩

theorem witness_HangingCallbackStopsTheBlock_bodies : stops = ⟨[], false⟩ ∧ 0 < 1 ∧
    waits.calls = .delayMs 1 :: [.init] := by decide
theorem witness_HangingCallbackStopsTheBlock_match :
    notifies (sessionWith .asyncMatch (some 9) none none [waits] q8 []) 27 (.valid 0x0121 0 ⟨21, 5⟩) = true ∧
    (sessionWith .asyncMatch (some 9) none none [waits] q8 []).op = .asyncMatch ∧
    (sessionWith .asyncMatch (some 9) none none [waits] q8 []).cbMatch = some 9 ∧
    (sessionWith .asyncMatch (some 9) none none [waits] q8 []).bodies = waits :: [] ∧ 21 + 5 ≤ base.cfg.rxCap := by
  decide
/-- The progress callback, at a decoded step. -/
theorem witness_HangingCallbackStopsTheBlock_step :
    notifies (sessionWith .asyncEnroll none (some 1) none [stops] e3 []) 26 (.valid 0x0118 0 ⟨21, 4⟩) = true ∧
    (sessionWith .asyncEnroll none (some 1) none [stops] e3 []).op = .asyncEnroll ∧
    (sessionWith .asyncEnroll none (some 1) none [stops] e3 []).cbProgress = some 1 ∧
    (sessionWith .asyncEnroll none (some 1) none [stops] e3 []).bodies = stops :: [] ∧ 21 + 4 ≤ base.cfg.rxCap := by
  decide
/-- The completion callback after a progress callback that returned, at the last step. -/
theorem witness_HangingCallbackStopsTheBlock_complete :
    notifies (sessionWith .asyncEnroll none (some 1) (some 2) [⟨[], true⟩, stops] e7 []) 26
      (.valid 0x0118 0 ⟨21, 4⟩) = true ∧
    (sessionWith .asyncEnroll none (some 1) (some 2) [⟨[], true⟩, stops] e7 []).op = .asyncEnroll ∧
    (sessionWith .asyncEnroll none (some 1) (some 2) [⟨[], true⟩, stops] e7 []).cbProgress = some 1 ∧
    (sessionWith .asyncEnroll none (some 1) (some 2) [⟨[], true⟩, stops] e7 []).cbComplete = some 2 ∧
    (sessionWith .asyncEnroll none (some 1) (some 2) [⟨[], true⟩, stops] e7 []).bodies = ⟨[], true⟩ :: stops :: [] ∧
    (sessionWith .asyncEnroll none (some 1) (some 2) [⟨[], true⟩, stops] e7 []).rxByte 21 = 0xFF := by decide
/-- The completion callback with no progress callback, at a module error. -/
theorem witness_HangingCallbackStopsTheBlock_complete_only :
    notifies (sessionWith .asyncEnroll none none (some 2) [waits] q12 []) 22 (.valid 0x0118 0x0B ⟨21, 0⟩) = true ∧
    (sessionWith .asyncEnroll none none (some 2) [waits] q12 []).op = .asyncEnroll ∧
    (sessionWith .asyncEnroll none none (some 2) [waits] q12 []).cbProgress = none ∧
    (sessionWith .asyncEnroll none none (some 2) [waits] q12 []).cbComplete = some 2 ∧
    (sessionWith .asyncEnroll none none (some 2) [waits] q12 []).bodies = waits :: [] ∧ (0x0B : Word) ≠ 0 := by decide
theorem witness_SpuriousNotificationIsRefused : (notified q1 base).pend.rx ≠ some 21 := by decide

theorem witness_SpuriousNotificationIsRefused_size :
    ({ base with pend := ⟨some 65, false⟩ } : State).pend.rx = some 65 ∧ base.cfg.rxCap < (65 : Half).toNat := by decide

/-- An instruction issued by its bytes. -/
def issued (f : Format) (bs : List Byte) (s : State) : State := scripted [.issue f bs] s

theorem witness_StepRunsTheDecodedInstruction_foreground : (issued .opsel [0x30] base).script = .issue .opsel [0x30] :: [] ∧
    decode (issued .opsel [0x30] base).cfg .opsel [0x30] = .ok .init ∧ agentOf .init = .foreground ∧
    (issued .opsel [0x30] base).hung = false ∧ (issued .opsel [0x30] base).pend = ⟨none, false⟩ ∧
    (issued .opsel [0x30] base).fg.phase = .idle := by decide
theorem witness_StepRunsTheDecodedInstruction_notification :
    decode (issued .opsel [0x18, 0, 22] (notified q1 base)).cfg .opsel [0x18, 0, 22] = .ok (.onUartReceive 22) ∧
    agentOf (.onUartReceive 22) = .notification ∧ (issued .opsel [0x18, 0, 22] (notified q1 base)).hung = false := by
  decide
theorem witness_StepRunsTheDecodedInstruction_transmit_complete :
    decode (issued .opsel [0x19] { base with pend := ⟨none, true⟩ }).cfg .opsel [0x19] = .ok .onTransmitComplete ∧
    agentOf .onTransmitComplete = .notification ∧
    (issued .opsel [0x19] { base with pend := ⟨none, true⟩ }).hung = false ∧
    (issued .opsel [0x19] { base with pend := ⟨none, true⟩ }).pend.rx = none := by decide
theorem witness_StepRunsTheDecodedInstruction_peer :
    decode base.cfg .appIn [3, 3, 0, 0, 0, 0, 0, 0, 0, 0] = .ok (.response 0x0303 0 0 []) ∧
    agentOf (.response 0x0303 0 0 []) = .peer := by decide
theorem witness_StepRunsTheDecodedInstruction_next_step :
    (scripted [.fg] (during .init .check base)).script = .fg :: [] ∧
    (scripted [.fg] (during .init .check base)).hung = false ∧
    (scripted [.fg] (during .init .check base)).pend = ⟨none, false⟩ ∧
    (scripted [.fg] (during .init .check base)).fg.phase ≠ .idle ∧
    (scripted [.fg] (during .init .check base)).fg.sleep = 0 ∧
    (scripted [.fg] (during .init .check base)).fg.instr = some .init := by decide
/-- The events of the statement: a foreground event, an issued call, an issued ON_TRANSMIT_COMPLETE and `IRQ`. -/
theorem witness_NotificationGoesFirst_events : decode base.cfg .opsel [0x30] = .ok .init ∧ agentOf .init = .foreground ∧
    decode base.cfg .opsel [0x19] = .ok .onTransmitComplete ∧ agentOf .onTransmitComplete = .notification := by decide
theorem witness_NotificationGoesFirst_receive :
    (scripted [.fg] (notified q1 base)).script = .fg :: [] ∧ (scripted [.fg] (notified q1 base)).hung = false ∧
    (scripted [.fg] (notified q1 base)).pend.rx = some 22 ∧
    (issued .opsel [0x30] (notified q1 base)).script = .issue .opsel [0x30] :: [] ∧
    (issued .opsel [0x30] (notified q1 base)).hung = false ∧
    (issued .opsel [0x30] (notified q1 base)).pend.rx = some 22 ∧
    (issued .opsel [0x19] (notified q1 base)).script = .issue .opsel [0x19] :: [] ∧
    (issued .opsel [0x19] (notified q1 base)).pend.rx = some 22 ∧
    (scripted [.irq] (notified q1 base)).script = .irq :: [] ∧ (scripted [.irq] (notified q1 base)).hung = false ∧
    (scripted [.irq] (notified q1 base)).pend.rx = some 22 := by decide
theorem witness_NotificationGoesFirst_transmit :
    (issued .opsel [0x30] { base with pend := ⟨none, true⟩ }).script = .issue .opsel [0x30] :: [] ∧
    (issued .opsel [0x30] { base with pend := ⟨none, true⟩ }).hung = false ∧
    (issued .opsel [0x30] { base with pend := ⟨none, true⟩ }).pend = ⟨none, true⟩ ∧
    (scripted [.fg] { base with pend := ⟨none, true⟩ }).script = .fg :: [] := by decide
theorem witness_NotificationGoesFirst_hung :
    (issued .opsel [0x30] { base with hung := true }).script = .issue .opsel [0x30] :: [] ∧
    (issued .opsel [0x30] { base with hung := true }).hung = true ∧
    (issued .opsel [0x19] { base with hung := true }).hung = true ∧
    (scripted [.irq] { base with hung := true }).script = .irq :: [] ∧
    (scripted [.irq] { base with hung := true }).hung = true := by decide
theorem witness_OverlappingOperationIsRefused :
    (issued .opsel [0x13] (during .init .wait base)).script = .issue .opsel [0x13] :: [] ∧
    decode (issued .opsel [0x13] (during .init .wait base)).cfg .opsel [0x13] = .ok .getTick ∧
    agentOf .getTick = .foreground ∧ (issued .opsel [0x13] (during .init .wait base)).hung = false ∧
    (issued .opsel [0x13] (during .init .wait base)).pend = ⟨none, false⟩ ∧
    (issued .opsel [0x13] (during .init .wait base)).fg.phase ≠ .idle := by decide
theorem witness_ResetMeetsTheInvariant : cfg.wf = true ∧ 0xFFFFFFFF < 2 ^ cfg.tickBits := by decide

/-- A state that meets the invariant and has a next state: the call of INIT is issued. -/
theorem witness_EveryStepKeepsTheInvariant :
    (issued .opsel [0x30] base).Inv ∧ (nextOf (step (issued .opsel [0x30] base))).isSome = true := by
  refine ⟨⟨by decide, by decide, by decide, by decide, by decide, by decide, ?_, by decide, by decide, by decide, ?_, ?_,
    ?_, by decide, ?_, by decide, ?_, ?_⟩, by decide⟩
  · intro k h; exact absurd h (by simp [issued, scripted, base, State.resetWith])
  · intro b h; exact absurd h (by simp [issued, scripted, base, State.resetWith])
  · intro b h; exact absurd h (by simp [issued, scripted, base, State.resetWith])
  · intro b h; exact absurd h (by simp [issued, scripted, base, State.resetWith])
  · intro r h; exact absurd h (by simp [issued, scripted, base, State.resetWith])
  · intro i h; exact absurd h (by simp [issued, scripted, base, State.resetWith, Fg.reset])
  · intro i h; exact absurd h (by simp [issued, scripted, base, State.resetWith, Fg.reset])

theorem witness_SessionMovesOnlyAlongItsTable_opens :
    ask (fun t => t.op) (step (scripted [.fg] (during .startAsyncMatch .check base))) = some .asyncMatch := by decide
theorem witness_SessionMovesOnlyAlongItsTable_ends :
    ask (fun t => t.op) (step (scripted [.irq] (session .asyncMatch q8 []))) = some .none := by decide
theorem witness_SessionMovesOnlyAlongItsTable_rolls_back : ask (fun t => t.op) (step (scripted [.fg]
    (answers [false] (during .startAsyncMatch .arm { base with op := .asyncMatch })))) = some .none := by decide
theorem witness_OnlySetPasswordWritesPw :
    ask (fun t => t.pw) (step (scripted [.fg] (finished (.cmdSetPasswordTemp 7) q1 0))) = some 7 ∧ base.pw ≠ 7 := by decide
theorem witness_OnlyEngineAndAbortWriteRx_engine :
    ask (fun t => decide (t.rx = [])) (step (arriving true q1)) = some false ∧ (arriving true q1).rx = [] := by decide
theorem witness_OnlyEngineAndAbortWriteRx_abort :
    ask (fun t => t.rx) (step (scripted [.fg] (received q1 (during .init .abort base)))) = some [] ∧
    (received q1 base).rx ≠ [] := by decide
theorem witness_OnlyEngineAndAbortWriteRx_abortReceive :
    ask (fun t => t.rx) (step (issued .opsel [0x12] (received q1 base))) = some [] := by decide
/-- ABORT_RECEIVE called from inside the match callback. -/
theorem witness_OnlyEngineAndAbortWriteRx_callback : ask (fun t => (t.rx, t.rxEpoch)) (step (scripted [.irq]
    (sessionWith .asyncMatch (some 9) none none [⟨[.abortReceive], true⟩] q8 []))) = some ([], 1) := by decide
theorem witness_ParametersAreFixed : (nextOf (step (issued .opsel [0x30] base))).isSome = true := by decide
theorem witness_DecodeOfEncode : Instr.wf (.transmit 65535) = true ∧ cfg.codesApart = true := by decide
theorem witness_EncodeOfDecode : decode cfg .opsel [0x36, 0x00, 0x42] = .ok (.deleteFingerprint 0x0042) := by decide

end Sys2Proof.Tests
end

/-! The codec: CHECKSUM, BUILD_FRAME and PARSE_FRAME (40_codec.md). -/

namespace Sys2Proof.Machine

/-! ## CHECKSUM (R120, R121) -/

/-- R121 in unbounded integers: a byte makes a span sum to 0 modulo 256 exactly when it is the span's checksum. -/
theorem cks_eq_iff_sum (b : List Byte) (c : Byte) :
    cks b = c ↔ ((b.map BitVec.toNat).sum + c.toNat) % 256 = 0 := by
  rw [cks_eq_iff, ← BitVec.toNat_inj, BitVec.toNat_add, byteSum_toNat, Nat.mod_add_mod]
  rfl

/-- R120 in unbounded integers. -/
theorem cks_toNat (b : List Byte) : (cks b).toNat = (256 - (b.map BitVec.toNat).sum % 256) % 256 := by
  have hzero := (cks_eq_iff_sum b (cks b)).mp rfl
  have hbound := (cks b).isLt
  omega

theorem exec_checksum_of_idle (b : List Byte) {s : State} (h : s.fg.phase = .idle) :
    exec (.checksum b) s = .next (answerCaller (.checksum (cks b)) s) :=
  whenIdle_of_idle _ h

/-- Settles O1: the checksum byte read in unbounded integers. -/
theorem checksumReturnsNegatedByteSum : Obligations.ChecksumReturnsNegatedByteSum :=
  fun b _ hidle => ⟨cks b, cks_toNat b, exec_checksum_of_idle b hidle⟩

/-- Settles O2: `cks_eq_iff_sum`, once for the checksum itself and once for any other byte. -/
theorem spanAndChecksumSumToZero : Obligations.SpanAndChecksumSumToZero :=
  fun b c => ⟨(cks_eq_iff_sum b (cks b)).mp rfl, fun hzero => ((cks_eq_iff_sum b c).mpr hzero).symm⟩

/-! ## BUILD_FRAME (R122) -/

theorem exec_buildFrame_of_fits {s : State} (cmd : Half) {p : List Byte} (hidle : s.fg.phase = .idle)
    (hcap : 18 + p.length ≤ s.cfg.txCap) (hlen : 7 + p.length ≤ 65535) :
    exec (.buildFrame cmd p) s = .next (answerCaller (.span ⟨0, 18 + p.length⟩) (putFrame cmd p s)) := by
  have hfits : fitsTx s p = true := by simp [fitsTx, hcap, hlen]
  calc exec (.buildFrame cmd p) s = runBuildFrame cmd p s := whenIdle_of_idle _ hidle
    _ = _ := if_pos hfits

/-- Settles O3: the bytes written are `outFrame`, and the addresses past them are not reached. -/
theorem buildFrameWritesTheFrame : Obligations.BuildFrameWritesTheFrame := by
  intro s cmd p hidle hcap hlen
  refine ⟨_, exec_buildFrame_of_fits cmd hidle hcap hlen, ?_, ?_, ?_⟩
  · rw [txBytes_of_putFrame (answerCaller_tx _ _)]
    simp only [outFrame, linkLayer, sealed, outFields, List.append_assoc]
  · intro a ha
    exact State.txByte_past_write ((answerCaller_tx _ _).trans (putFrame_tx cmd p s)) (by rwa [outFrame_length])
  · simp only [answerCaller, putFrame]

/-! ## The six checks (R124) -/

/-- V1 to V6 of R124 in their order, for a received byte sequence.  V5 needs an application checksum byte, so it asks
also that the application layer is not empty. -/
def FrameChecks (minAppLen : Nat) (raw : List Byte) : Prop :=
  11 ≤ raw.length ∧ slice raw 0 8 = magic ∧ cks (slice raw 0 10) = byteAt raw 10 ∧
    11 + claimedLen raw ≤ raw.length ∧ claimedLen raw ≠ 0 ∧
    cks (slice raw 11 (claimedLen raw - 1)) = byteAt raw (10 + claimedLen raw) ∧ minAppLen ≤ claimedLen raw

theorem parseFrame_of_checks {m : Nat} {raw : List Byte} (h : FrameChecks m raw) :
    parseFrame m raw = parsedFields raw := by
  obtain ⟨hheader, hmagic, hlink, hfits, hne, happ, hmin⟩ := h
  unfold parseFrame
  rw [if_neg (by omega), if_neg (not_not.mpr hmagic), if_neg (not_not.mpr hlink), if_neg (by omega), if_neg hne,
    if_neg (not_not.mpr happ), if_neg (by omega)]

theorem frameChecks_of_valid {m : Nat} {raw : List Byte} (h : parseFrame m raw ≠ .invalid) : FrameChecks m raw := by
  obtain ⟨hfits, hne, hmin, hmagic, hlink, happ, -⟩ := parseFrame_valid h
  exact ⟨by omega, hmagic, hlink, hfits, hne, happ, hmin⟩

theorem parseFrame_of_not_checks {m : Nat} {raw : List Byte} (h : ¬ FrameChecks m raw) :
    parseFrame m raw = .invalid :=
  by_contra fun hvalid => h (frameChecks_of_valid hvalid)

/-! ## PARSE_FRAME of the receive buffer (R124 to R126) -/

theorem exec_parseFrame_of_idle {s : State} (hidle : s.fg.phase = .idle) (hsize : s.rxsz.toNat ≤ s.cfg.rxCap) :
    exec .parseFrame s =
      .next (answerCaller (.verdict (parseFrame s.cfg.minAppLen (s.rxBytes 0 s.rxsz.toNat))) s) :=
  (whenIdle_of_idle _ hidle).trans (withParsed_of_le _ hsize)

/-- A byte of the received sequence is the byte of `RX` at its address. -/
theorem byteAt_rxBytes_zero (s : State) {n i : Nat} (h : i < n) : byteAt (s.rxBytes 0 n) i = s.rxByte i := by
  rw [byteAt_rxBytes s 0 h, Nat.zero_add]

theorem claimedLen_rxBytes (s : State) {n : Nat} (h : 11 ≤ n) :
    claimedLen (s.rxBytes 0 n) = (s.rxByte 8).toNat * 256 + (s.rxByte 9).toNat := by
  rw [claimedLen, byteAt_rxBytes_zero s (by omega), byteAt_rxBytes_zero s (by omega), be16_toNat]

/-- The checks of the received bytes, said of the bytes of `RX`. -/
theorem frameChecks_rxBytes_iff (m : Nat) (s : State) {n L : Nat}
    (hL : (s.rxByte 8).toNat * 256 + (s.rxByte 9).toNat = L) :
    FrameChecks m (s.rxBytes 0 n) ↔
      11 ≤ n ∧ s.rxBytes 0 8 = magic ∧ cks (s.rxBytes 0 10) = s.rxByte 10 ∧ 11 + L ≤ n ∧ L ≠ 0 ∧
        cks (s.rxBytes 11 (L - 1)) = s.rxByte (11 + L - 1) ∧ m ≤ L := by
  by_cases hheader : 11 ≤ n
  case neg => simp [FrameChecks, hheader]
  have hclaimed : claimedLen (s.rxBytes 0 n) = L := (claimedLen_rxBytes s hheader).trans hL
  by_cases hfits : 11 + L ≤ n
  case neg => simp [FrameChecks, hclaimed, hfits]
  by_cases hne : L = 0
  case pos => simp [FrameChecks, hclaimed, hne]
  have hlast : 11 + L - 1 = 10 + L := by omega
  have hmagic : slice (s.rxBytes 0 n) 0 8 = s.rxBytes 0 8 := slice_rxBytes s (by omega)
  have hlink : slice (s.rxBytes 0 n) 0 10 = s.rxBytes 0 10 := slice_rxBytes s (by omega)
  have hlinkByte : byteAt (s.rxBytes 0 n) 10 = s.rxByte 10 := byteAt_rxBytes_zero s (by omega)
  have happ : slice (s.rxBytes 0 n) 11 (L - 1) = s.rxBytes 11 (L - 1) := slice_rxBytes s (by omega)
  have happByte : byteAt (s.rxBytes 0 n) (10 + L) = s.rxByte (10 + L) := byteAt_rxBytes_zero s (by omega)
  simp only [FrameChecks, State.rxBytes_length, hclaimed, hmagic, hlink, hlinkByte, happ, happByte, hlast]

/-- The fields of the received bytes, read from `RX`. -/
theorem parsedFields_rxBytes (s : State) {n L : Nat} (hL : (s.rxByte 8).toNat * 256 + (s.rxByte 9).toNat = L)
    (hn : 21 ≤ n) :
    parsedFields (s.rxBytes 0 n) = .valid (be16 (s.rxByte 15) (s.rxByte 16))
      (be32 (s.rxByte 17) (s.rxByte 18) (s.rxByte 19) (s.rxByte 20)) ⟨21, L - 11⟩ := by
  have hbyte : ∀ i, i < 21 → byteAt (s.rxBytes 0 n) i = s.rxByte i :=
    fun i hi => byteAt_rxBytes_zero s (by omega)
  rw [parsedFields, claimedLen_rxBytes s (by omega), hL, hbyte 15 (by decide), hbyte 16 (by decide),
    hbyte 17 (by decide), hbyte 18 (by decide), hbyte 19 (by decide), hbyte 20 (by decide)]

/-- Settles O5: the verdict is that of `parseFrame` on the bytes received, whose checks are those of `RX`. -/
theorem parseFrameMakesTheSixChecks : Obligations.ParseFrameMakesTheSixChecks := by
  intro s hidle hsize hmin
  refine ⟨_, exec_parseFrame_of_idle hidle hsize, ?_⟩
  intro n L passes
  have hchecks : FrameChecks s.cfg.minAppLen (s.rxBytes 0 n) ↔ passes := frameChecks_rxBytes_iff _ s rfl
  constructor
  · intro hpasses
    have hlong : 21 ≤ n := by
      obtain ⟨-, -, -, hfits, -, -, hlow⟩ := hpasses
      omega
    refine ⟨⟨21, L - 11⟩, ?_, fun _ => rfl⟩
    exact (parseFrame_of_checks (hchecks.mpr hpasses)).trans (parsedFields_rxBytes s rfl hlong)
  · intro hfails
    exact parseFrame_of_not_checks (mt hchecks.mp hfails)

/-! ## Round trip (R129) -/

/-- Past the link layer stands the application layer. -/
theorem byteAt_linkLayer_append (n : Nat) (app : List Byte) (i : Nat) :
    byteAt (linkLayer n ++ app) (11 + i) = byteAt app i := by
  rw [byteAt, List.getD_append_right _ _ _ _ (by simp), linkLayer_length, Nat.add_sub_cancel_left]
  rfl

theorem slice_linkLayer_append (n : Nat) (app : List Byte) (off len : Nat) :
    slice (linkLayer n ++ app) (11 + off) len = slice app off len := by
  rw [slice, List.drop_append, linkLayer_length, Nat.add_sub_cancel_left, List.drop_eq_nil_of_le (by simp),
    List.nil_append, slice]

/-- A frame whose application length is long enough is valid, and its fields stand in its application layer after the
four bytes of the password. -/
theorem parseFrame_layers_valid {m n : Nat} {fields app : List Byte} (happ : app = sealed fields)
    (hn : n = fields.length + 1) (hfit : n ≤ 65535) (hmin : m ≤ n) :
    parseFrame m (linkLayer n ++ app) = .valid (be16 (byteAt app 4) (byteAt app 5))
      (be32 (byteAt app 6) (byteAt app 7) (byteAt app 8) (byteAt app 9)) ⟨21, n - 11⟩ := by
  subst happ hn
  obtain ⟨hparse, hclaimed⟩ := parseFrame_of_layers m fields hfit hmin
  have hbyte := byteAt_linkLayer_append (fields.length + 1) (sealed fields)
  rw [hparse, parsedFields, hclaimed, hbyte 4, hbyte 5, hbyte 6, hbyte 7, hbyte 8, hbyte 9]

/-- A frame whose application length is below the minimum is invalid. -/
theorem parseFrame_layers_invalid {m n : Nat} {fields : List Byte} (hn : n = fields.length + 1) (hfit : n ≤ 65535)
    (hmin : n < m) : parseFrame m (linkLayer n ++ sealed fields) = .invalid := by
  subst hn
  have hclaimed := (parseFrame_of_layers 0 fields hfit (Nat.zero_le _)).2
  refine parseFrame_of_not_checks fun ⟨_, _, _, _, _, _, hlow⟩ => ?_
  omega

theorem parseFrame_inFrame {m : Nat} (hm : m ≤ 11) (pw err : Word) (ack : Half) {p : List Byte}
    (hfit : 11 + p.length ≤ 65535) : parseFrame m (inFrame pw ack err p) = .valid ack err ⟨21, p.length⟩ := by
  have hlen : 11 + p.length = (inFields pw ack err p).length + 1 := by simp; omega
  rw [inFrame, parseFrame_layers_valid rfl hlen hfit (by omega), Nat.add_sub_cancel_left]
  congr 1
  · exact be16_of_bytes ack
  · exact be32_of_bytes err

theorem slice_inFrame_payload (pw err : Word) (ack : Half) (p : List Byte) :
    slice (inFrame pw ack err p) 21 p.length = p := by
  have hfields : (sealed (inFields pw ack err p)).drop 10 = p ++ [cks (inFields pw ack err p)] := rfl
  rw [inFrame, slice_linkLayer_append _ _ 10, slice, hfields, List.take_left]

/-- The bytes of an outbound frame's application layer after the password and the command: payload and checksum. -/
def outTail (pw : Word) (cmd : Half) (p : List Byte) : List Byte := p ++ [cks (outFields pw cmd p)]

theorem byteAt_outTail (pw : Word) (cmd : Half) {p : List Byte} {i : Nat} (h : i < p.length) :
    byteAt (outTail pw cmd p) i = byteAt p i :=
  List.getD_append _ _ _ _ h

/-- An outbound frame read in the inbound layout: the command stands at the ack code, and the bytes that follow it, the
checksum among them, at the error code. -/
theorem parseFrame_outFrame {m : Nat} (pw : Word) (cmd : Half) {p : List Byte} (hm : m ≤ 7 + p.length)
    (hfit : 7 + p.length ≤ 65535) :
    parseFrame m (outFrame pw cmd p) = .valid cmd
      (be32 (byteAt (outTail pw cmd p) 0) (byteAt (outTail pw cmd p) 1) (byteAt (outTail pw cmd p) 2)
        (byteAt (outTail pw cmd p) 3)) ⟨21, p.length - 4⟩ := by
  have hlen : 7 + p.length = (outFields pw cmd p).length + 1 := by simp; omega
  have hspan : 7 + p.length - 11 = p.length - 4 := by omega
  rw [outFrame, parseFrame_layers_valid rfl hlen hfit hm, hspan]
  congr 1
  exact be16_of_bytes cmd

theorem parseFrame_outFrame_invalid {m : Nat} (pw : Word) (cmd : Half) {p : List Byte} (hm : 7 + p.length < m)
    (hfit : 7 + p.length ≤ 65535) : parseFrame m (outFrame pw cmd p) = .invalid :=
  parseFrame_layers_invalid (by simp; omega) hfit hm

/-- Settles O7: a frame is a sealed link layer and a sealed application layer, so its verdict is decided by its length
and its fields are those of its application layer. -/
theorem parseRecoversFrames : Obligations.ParseRecoversFrames := by
  intro m hm
  refine ⟨fun pw err ack p hfit => ⟨parseFrame_inFrame (by omega) pw err ack hfit, slice_inFrame_payload pw err ack p⟩,
    fun pw cmd p hfit => ⟨fun hlen => ?_, fun hlen hmin => ?_, fun hlen hmin => ?_, fun hlen => ?_⟩⟩
  · rw [parseFrame_outFrame pw cmd (by omega) hfit, byteAt_outTail pw cmd (by omega), byteAt_outTail pw cmd (by omega),
      byteAt_outTail pw cmd (by omega), byteAt_outTail pw cmd (by omega)]
  · obtain ⟨a, b, c, rfl⟩ := List.length_eq_three.mp hlen
    exact parseFrame_outFrame pw cmd (by simp [hmin]) hfit
  · exact parseFrame_outFrame_invalid pw cmd (by omega) hfit
  · exact parseFrame_outFrame_invalid pw cmd (by omega) hfit

/-! ## Corruption (R130) -/

theorem byteAt_set_ne (raw : List Byte) {k i : Nat} (v : Byte) (h : k ≠ i) :
    byteAt (raw.set k v) i = byteAt raw i := by
  simp [byteAt, List.getElem?_set_ne h]

/-- A changed byte inside a slice is changed in the slice. -/
theorem slice_set_inside (raw : List Byte) {k off : Nat} (len : Nat) (v : Byte) (h : off ≤ k) :
    slice (raw.set k v) off len = (slice raw off len).set (k - off) v := by
  rw [slice, List.drop_set, if_neg (by omega), List.take_set, slice]

theorem byteAt_slice (raw : List Byte) {off len i : Nat} (h : i < len) :
    byteAt (slice raw off len) i = byteAt raw (off + i) := by
  simp [byteAt, slice, h]

/-- Changing one byte moves the byte sum by the difference. -/
theorem byteSum_set (bs : List Byte) {k : Nat} (v : Byte) (h : k < bs.length) :
    byteSum (bs.set k v) = byteSum bs + (v - byteAt bs k) := by
  induction bs generalizing k with
  | nil => simp at h
  | cons b bs ih =>
    cases k with
    | zero => simp [byteAt]; ring
    | succ k =>
      have hk := ih (k := k) (by simpa using h)
      simp [hk, byteAt]; ring

theorem slice_succ (raw : List Byte) {off len : Nat} (h : off + len < raw.length) :
    slice raw off (len + 1) = slice raw off len ++ [byteAt raw (off + len)] := by
  simp [slice, List.take_add_one, byteAt, h]

/-- R121 on a part of a sequence: the byte after a slice is its checksum exactly when the two sum to 0. -/
theorem cks_slice_eq_iff {raw : List Byte} {off len : Nat} (h : off + len < raw.length) :
    cks (slice raw off len) = byteAt raw (off + len) ↔ byteSum (slice raw off (len + 1)) = 0 := by
  rw [cks_eq_iff, slice_succ raw h, byteSum_append, byteSum_cons, byteSum_nil]
  simp

/-- One changed byte among a checked slice and its checksum is found, whichever of them it is. -/
theorem cks_slice_set_ne {raw : List Byte} {off len k : Nat} {v : Byte} (hend : off + len < raw.length)
    (hoff : off ≤ k) (hk : k ≤ off + len) (hv : v ≠ byteAt raw k)
    (hcks : cks (slice raw off len) = byteAt raw (off + len)) :
    cks (slice (raw.set k v) off len) ≠ byteAt (raw.set k v) (off + len) := by
  rw [Ne, cks_slice_eq_iff (by simpa using hend), slice_set_inside raw _ v hoff,
    byteSum_set _ v (by simp [slice]; omega), (cks_slice_eq_iff hend).mp hcks, byteAt_slice raw (by omega),
    Nat.add_sub_cancel' hoff, zero_add, sub_eq_zero]
  exact hv

/-- Flipping one bit changes a byte. -/
theorem xor_bit_ne (b : Byte) {j : Nat} (h : j < 8) : b ^^^ BitVec.ofNat 8 (2 ^ j) ≠ b := by
  intro heq
  have hbit := congrArg (BitVec.getLsbD · j) heq
  rw [BitVec.getLsbD_xor, BitVec.getLsbD_ofNat, Nat.testBit_two_pow_self] at hbit
  simp [h] at hbit

/-- A changed byte of a valid frame is found: by the link checksum among the first 11 bytes, and past them, where the
claimed length stays as it is, by the application checksum. -/
theorem parseFrame_set_invalid {m : Nat} {raw : List Byte} (hchecks : FrameChecks m raw) {k : Nat} {v : Byte}
    (hk : k < 11 + claimedLen raw) (hv : v ≠ byteAt raw k) : parseFrame m (raw.set k v) = .invalid := by
  obtain ⟨hheader, -, hlink, hfits, hne, happ, -⟩ := hchecks
  refine parseFrame_of_not_checks fun ⟨_, _, hlink', _, _, happ', _⟩ => ?_
  rcases Nat.lt_or_ge k 11 with hlow | hhigh
  · exact cks_slice_set_ne (off := 0) (len := 10) (by omega) (by omega) (by omega) hv hlink hlink'
  · have hclaimed : claimedLen (raw.set k v) = claimedLen raw := by
      rw [claimedLen, byteAt_set_ne raw v (by omega), byteAt_set_ne raw v (by omega), claimedLen]
    have hlast : 10 + claimedLen raw = 11 + (claimedLen raw - 1) := by omega
    rw [hclaimed, hlast] at happ'
    rw [hlast] at happ
    exact cks_slice_set_ne (by omega) hhigh (by omega) hv happ happ'

/-! ### Bytes after the frame -/

theorem byteAt_of_take_eq {raw raw' : List Byte} {n i : Nat} (h : raw'.take n = raw.take n) (hi : i < n) :
    byteAt raw' i = byteAt raw i := by
  have hget := congrArg (fun l => byteAt l i) h
  simpa [byteAt, List.getElem?_take, hi] using hget

theorem slice_of_take_eq {raw raw' : List Byte} {n off len : Nat} (h : raw'.take n = raw.take n)
    (hlen : off + len ≤ n) : slice raw' off len = slice raw off len := by
  have hslice : ∀ l : List Byte, slice l off len = slice (l.take n) off len := by
    intro l
    rw [slice, slice, List.drop_take, List.take_take, Nat.min_eq_left (by omega)]
  rw [hslice raw', hslice raw, h]

/-- The verdict on a valid frame depends on the frame's own bytes alone. -/
theorem parseFrame_of_take_eq {m : Nat} {raw raw' : List Byte} (hm : 10 ≤ m) (hchecks : FrameChecks m raw)
    (h : raw'.take (11 + claimedLen raw) = raw.take (11 + claimedLen raw)) :
    parseFrame m raw' = parseFrame m raw := by
  have hbyte : ∀ i, i < 11 + claimedLen raw → byteAt raw' i = byteAt raw i := fun i => byteAt_of_take_eq h
  have hlength : min (11 + claimedLen raw) raw'.length = min (11 + claimedLen raw) raw.length := by
    simpa using congrArg List.length h
  have ⟨hheader, hmagic, hlink, hfits, hne, happ, hmin⟩ := hchecks
  have hclaimed : claimedLen raw' = claimedLen raw := by
    rw [claimedLen, hbyte 8 (by omega), hbyte 9 (by omega), claimedLen]
  have hchecks' : FrameChecks m raw' := by
    rw [FrameChecks, hclaimed, slice_of_take_eq h (by omega), slice_of_take_eq h (by omega),
      slice_of_take_eq h (by omega), hbyte 10 (by omega), hbyte _ (by omega)]
    exact ⟨by omega, hmagic, hlink, by omega, hne, happ, hmin⟩
  rw [parseFrame_of_checks hchecks, parseFrame_of_checks hchecks', parsedFields, hclaimed, hbyte 15 (by omega),
    hbyte 16 (by omega), hbyte 17 (by omega), hbyte 18 (by omega), hbyte 19 (by omega), hbyte 20 (by omega),
    parsedFields]

/-- Settles O8: every byte of a valid frame stands under one of the two checksums, and no byte past it is read. -/
theorem singleBitFlipIsFound : Obligations.SingleBitFlipIsFound := by
  intro m raw hm hvalid
  have hchecks := frameChecks_of_valid hvalid
  have hfits := (parseFrame_valid hvalid).1
  refine ⟨fun k j hk hj => parseFrame_set_invalid hchecks hk (xor_bit_ne _ hj), fun tail => ?_, fun k v hk => ?_⟩
  · exact parseFrame_of_take_eq (by omega) hchecks (List.take_append_of_le_length hfits)
  · exact parseFrame_of_take_eq (by omega) hchecks (List.take_set_of_le hk)

end Sys2Proof.Machine

/-! The dispatcher: `Busy` while a session is active (42_dispatcher.md section Check, 45_async.md section Mutual
exclusion). -/

namespace Sys2Proof.Machine

/-! ## `Check` during a session (R171, R231, R251) -/

theorem checkStep_of_session (next : Phase) {s : State} (h : s.op ≠ .none) : checkStep next s = raise .busy 0 s :=
  if_pos h

theorem startCheckStep_of_session (x : Session) {s : State} (h : s.op ≠ .none) :
    startCheckStep x s = raise .busy 0 s :=
  if_pos h

/-- An operation that uses the line is a request, the enrollment or a START. -/
theorem usesLine_cases {i : Instr} (h : usesLine i = true) (c : Config) :
    (∃ cmd p, exchangeRequest c i = some (cmd, p)) ∨ (∃ f n cb, enrollOperands i = some (f, n, cb)) ∨
      ∃ x cmd p, startRequest i = some (x, cmd, p) := by
  rcases (Bool.or_eq_true _ _).mp h with hsync | hstart
  · exact (isSync_cases hsync c).imp_right .inl
  · obtain ⟨⟨x, cmd, p⟩, hrequest⟩ := Option.isSome_iff_exists.mp hstart
    exact .inr (.inr ⟨x, cmd, p, hrequest⟩)

/-- The three kinds of operation that use the line have the same `Check` during a session. -/
theorem exec_check_of_session {i : Instr} {s : State} (huses : usesLine i = true) (hphase : s.fg.phase = .check)
    (hinstr : s.fg.instr = some i) (hop : s.op ≠ .none) : exec i s = .next (raise .busy 0 s) := by
  have hactive : s.fg.phase ≠ .idle := by rw [hphase]; decide
  rcases usesLine_cases huses s.cfg with ⟨cmd, p, hrequest⟩ | ⟨f, n, cb, henroll⟩ | ⟨x, cmd, p, hstart⟩
  · rw [exec_request_step (Option.isSome_of_eq_some hrequest) hactive hinstr]
    simp only [exchangeStep, hphase, checkStep_of_session _ hop]
  · rw [exec_enrollment_step henroll hactive hinstr]
    simp only [enrollStep, hphase, checkStep_of_session _ hop]
  · rw [exec_start_step hstart hactive hinstr]
    simp only [startStep, hphase, startCheckStep_of_session _ hop]

/-! ## `Busy` from inside a callback (R260 d, R261) -/

/-- The AsyncMatch continuation when its callback calls an operation that uses the line. -/
theorem matchReport_busy {i : Instr} (huses : usesLine i = true) {m : MatchResult} {s : State} {h : Handle}
    {q : List CallbackBody} (hcb : s.cbMatch = some h) (hbodies : s.bodies = ⟨[i], true⟩ :: q) :
    ∃ o d, matchReport m s = .next
      { s with op := .none, bodies := q, draws := d, invoked := s.invoked ++ [⟨.onMatch, h, .matched m⟩],
               results := s.results ++ [⟨some ⟨.busy, 0⟩, o⟩] } := by
  obtain ⟨o, d, hcall⟩ := invokeRegistered_busy huses (role := .onMatch) (h := h) (arg := .matched m)
    (k := finishSession) hbodies
  exact ⟨o, d, (matchReport_some hcb).trans hcall⟩

/-- The AsyncEnroll continuation after its progress callback has called an operation that uses the line. -/
theorem enrollReport_busy {i : Instr} (huses : usesLine i = true) {st : EnrollStatus} {s : State} {h : Handle}
    {q : List CallbackBody} (hcb : s.cbProgress = some h) (hbodies : s.bodies = ⟨[i], true⟩ :: q) :
    ∃ o d, enrollReport st s = enrollAdvance st
      { s with bodies := q, draws := d, invoked := s.invoked ++ [⟨.onProgress, h, .enroll st⟩],
               results := s.results ++ [⟨some ⟨.busy, 0⟩, o⟩] } := by
  obtain ⟨o, d, hcall⟩ := invokeRegistered_busy huses (role := .onProgress) (h := h) (arg := .enroll st)
    (k := enrollAdvance st) hbodies
  exact ⟨o, d, (enrollReport_some hcb).trans hcall⟩

/-- Settles O19: the three kinds of operation share one `Check`; a call from a callback adds its `Busy` to what the
continuation does. -/
theorem busyHasNoSideEffect : Obligations.BusyHasNoSideEffect := by
  intro i s huses
  refine ⟨exec_check_of_session huses, fun k ack err sp h q hpend hsize hbodies hframe => ⟨?_, ?_⟩⟩
  · intro hop hcb hspan
    obtain ⟨m, d₀, hreport⟩ := exec_notification_match hop hpend hsize hframe hspan
    obtain ⟨o, d, hbusy⟩ := matchReport_busy huses (m := m) (s := { recordReceive k s with draws := d₀ }) hcb hbodies
    exact ⟨m, o, d, hreport.trans hbusy⟩
  · intro hop hprogress hcomplete herr
    obtain ⟨o, d, hbusy⟩ := enrollReport_busy huses (st := ⟨true, 0, 0, 0, err⟩) (s := recordReceive k s) hprogress
      hbodies
    have hreport := exec_notification_enroll hop hpend hsize hframe (fun hzero => absurd hzero herr)
    rw [if_neg herr] at hreport
    exact ⟨o, d, hreport.trans (hbusy.trans (enrollAdvance_unset rfl hcomplete))⟩

end Sys2Proof.Machine

/-! The commands: the callback setters (43_commands.md). -/

namespace Sys2Proof.Machine

/-! ## The setters (R202 to R204) -/

theorem exec_setMatchCallback_of_idle (cb : Callback) {s : State} (h : s.fg.phase = .idle) :
    exec (.setMatchCallback cb) s = .next (answerCaller .nothing { s with cbMatch := cb }) :=
  whenIdle_of_idle _ h

theorem exec_setEnrollProgressCallback_of_idle (cb : Callback) {s : State} (h : s.fg.phase = .idle) :
    exec (.setEnrollProgressCallback cb) s = .next (answerCaller .nothing { s with cbProgress := cb }) :=
  whenIdle_of_idle _ h

theorem exec_setEnrollCompleteCallback_of_idle (cb : Callback) {s : State} (h : s.fg.phase = .idle) :
    exec (.setEnrollCompleteCallback cb) s = .next (answerCaller .nothing { s with cbComplete := cb }) :=
  whenIdle_of_idle _ h

/-- Settles O34: each setter is its one step, run from Idle; the answer is an appended result without a
`CommandResult`. -/
theorem settersWriteTheirRegister : Obligations.SettersWriteTheirRegister :=
  fun _ cb hidle => ⟨exec_setMatchCallback_of_idle cb hidle, exec_setEnrollProgressCallback_of_idle cb hidle,
    exec_setEnrollCompleteCallback_of_idle cb hidle⟩

end Sys2Proof.Machine

/-! The asynchronous operations: the notification during a session (45_async.md). -/

namespace Sys2Proof.Machine

/-- The next state written out: the size, the session register and the taken notification, and no other field. -/
theorem endSession_recordReceive (k : Half) (s : State) :
    endSession (recordReceive k s) = { s with rxsz := k, op := .none, pend := ⟨none, s.pend.tx⟩ } := rfl

/-- Settles O42: with a session active the handler takes the continuation, whose invalid branch ends the session
before any callback, re-arm or abort (R254). -/
theorem invalidFrameEndsTheSession : Obligations.InvalidFrameEndsTheSession := by
  intro s k hsession hpend hsize hinvalid
  have hend := exec_notification_invalid hsession hpend hsize hinvalid
  rwa [endSession_recordReceive] at hend

end Sys2Proof.Machine

/-! The encoding: the decoder and the encoder are each other's inverse (30_encoding.md, 20_memory.md section Byte
order). -/

namespace Sys2Proof

/-! ## Reading back what was written -/

/-- A reader gives back the operand whose bytes it is given. -/
theorem readHalf_bytes16 (f : Half → Instr) (v : Half) : readHalf f (bytes16 v) = .ok (f v) :=
  congrArg (Decoded.ok <| f ·) (be16_of_bytes v)

theorem readWord_bytes32 (f : Word → Instr) (v : Word) : readWord f (bytes32 v) = .ok (f v) :=
  congrArg (Decoded.ok <| f ·) (be32_of_bytes v)

theorem readFlag_flagByte (f : Bool → Instr) (b : Bool) : readFlag f [flagByte b] = .ok (f b) := by
  cases b <;> rfl

theorem readCallback_callbackBytes (f : Callback → Instr) (cb : Callback) :
    readCallback f (callbackBytes cb) = .ok (f cb) := by
  cases cb with
  | none => rfl
  | some h => exact congrArg (Decoded.ok <| f <| some ·) (be32_of_bytes h)

theorem readBuildFrame_bytes (cmd : Half) (p : List Byte) :
    readBuildFrame (bytes16 cmd ++ p) = .ok (.buildFrame cmd p) :=
  congrArg (Decoded.ok <| .buildFrame · p) (be16_of_bytes cmd)

theorem readSendAndAwait_bytes (cmd : Half) (v : Word) (p : List Byte) :
    readSendAndAwait (bytes16 cmd ++ bytes32 v ++ p) = .ok (.sendAndAwait cmd v.toNat p) :=
  congrArg₂ (fun c (w : Word) => Decoded.ok (.sendAndAwait c w.toNat p)) (be16_of_bytes cmd) (be32_of_bytes v)

theorem readAutoEnroll_bytes (id : Half) (n : Byte) (cb : Callback) :
    readAutoEnroll (bytes16 id ++ n :: callbackBytes cb) = .ok (.autoEnroll id n cb) :=
  (readCallback_callbackBytes _ cb).trans (congrArg (Decoded.ok <| .autoEnroll · n cb) (be16_of_bytes id))

theorem readAsyncEnroll_bytes (id : Half) (n : Byte) :
    readAsyncEnroll (bytes16 id ++ [n]) = .ok (.startAsyncEnroll id n) :=
  congrArg (Decoded.ok <| .startAsyncEnroll · n) (be16_of_bytes id)

theorem readSetPassword_bytes (v : Word) (fl : Bool) :
    readSetPassword (bytes32 v ++ [flagByte fl]) = .ok (.setPassword v fl) :=
  (readFlag_flagByte _ fl).trans (congrArg (Decoded.ok <| .setPassword · fl) (be32_of_bytes v))

theorem readCmdAutoEnroll_bytes (n : Byte) (id : Half) :
    readCmdAutoEnroll (n :: bytes16 id) = .ok (.cmdAutoEnroll n id) :=
  congrArg (Decoded.ok <| .cmdAutoEnroll n ·) (be16_of_bytes id)

theorem readResponse_bytes (ack : Half) (pw err : Word) (p : List Byte) :
    readResponse (bytes16 ack ++ bytes32 pw ++ bytes32 err ++ p) = .ok (.response ack pw err p) := by
  simp only [bytes16, bytes32, List.cons_append, List.nil_append, readResponse, be16_of_bytes, be32_of_bytes]

/-! ### The request codes -/

/-- A request's bytes are read by its code. -/
theorem readFormat_appOut (c : Config) (code : Half) (r : List Byte) :
    readFormat c .appOut (bytes16 code ++ r) = readCode c code r :=
  congrArg (readCode c · r) (be16_of_bytes code)

/-- A code that R90 does not list is read as one of the two open codes. -/
theorem readCode_unlisted {c : Config} {code : Half} (h : listedCodes.contains code = false) (r : List Byte) :
    readCode c code r = readOpenCode c code r := by
  simp only [listedCodes, List.contains_cons, List.contains_nil, Bool.or_eq_false_iff, beq_eq_false_iff_ne] at h
  obtain ⟨h1, h2, h3, h4, h5, h6, h7, h8, h9, h10, h11, -⟩ := h
  simp only [readCode, h1, h2, h3, h4, h5, h6, h7, h8, h9, h10, h11, if_false]

/-- Reading the bytes of a well-formed instruction before its bounds are looked at. -/
theorem readFormat_encode {c : Config} {i : Instr} (hwf : i.wf = true) (hcodes : c.codesApart = true) :
    readFormat c (formatOf i) (encode c i) = .ok i := by
  simp only [Config.codesApart, Bool.and_eq_true, Bool.not_eq_true', decide_eq_true_eq] at hcodes
  obtain ⟨⟨hsleep, hled⟩, hapart⟩ := hcodes
  cases i
  case transmit n =>
    refine (readHalf_bytes16 (fun n => .transmit n.toNat) _).trans ?_
    rw [BitVec.toNat_ofNat, Nat.mod_eq_of_lt (of_decide_eq_true hwf)]
  case delayMs d =>
    refine (readWord_bytes32 (fun d => .delayMs d.toNat) _).trans ?_
    rw [BitVec.toNat_ofNat, Nat.mod_eq_of_lt (of_decide_eq_true hwf)]
  case sendAndAwait cmd t p =>
    have ht : t < 2 ^ 32 := of_decide_eq_true ((Bool.and_eq_true _ _).mp hwf).1
    refine (readSendAndAwait_bytes cmd _ p).trans ?_
    rw [BitVec.toNat_ofNat, Nat.mod_eq_of_lt ht]
  case buildFrame cmd p => exact readBuildFrame_bytes cmd p
  case onUartReceive n => exact readHalf_bytes16 _ n
  case autoEnroll id n cb => exact readAutoEnroll_bytes id n cb
  case startAsyncEnroll id n => exact readAsyncEnroll_bytes id n
  case deleteFingerprint id => exact readHalf_bytes16 _ id
  case setPassword v fl => exact readSetPassword_bytes v fl
  case updateFeatureAfterMatch id => exact readHalf_bytes16 _ id
  case enterSleepMode d => exact readFlag_flagByte _ d
  case setMatchCallback cb => exact readCallback_callbackBytes _ cb
  case setEnrollProgressCallback cb => exact readCallback_callbackBytes _ cb
  case setEnrollCompleteCallback cb => exact readCallback_callbackBytes _ cb
  case cmdAutoEnroll n id => exact (readFormat_appOut c _ _).trans (readCmdAutoEnroll_bytes n id)
  case cmdDeleteOne id => exact (readFormat_appOut c _ _).trans (readHalf_bytes16 _ id)
  case cmdSetPasswordFlash v => exact (readFormat_appOut c _ _).trans (readWord_bytes32 _ v)
  case cmdSetPasswordTemp v => exact (readFormat_appOut c _ _).trans (readWord_bytes32 _ v)
  case cmdUpdateFeature id => exact (readFormat_appOut c _ _).trans (readHalf_bytes16 _ id)
  case cmdEnterSleep d =>
    refine ((readFormat_appOut c _ _).trans (readCode_unlisted hsleep _)).trans ?_
    rw [readOpenCode, if_pos rfl, readFlag_flagByte]
  case cmdSetLed l =>
    refine ((readFormat_appOut c _ _).trans (readCode_unlisted hled _)).trans ?_
    rw [readOpenCode, if_neg hapart.symm, if_pos rfl]
    rfl
  case response ack pw err p => exact readResponse_bytes ack pw err p
  all_goals rfl

/-- Settles O58: each operand reader gives back the operand whose bytes it is given, and the selector picks that
reader. -/
theorem decodeOfEncode : Obligations.DecodeOfEncode := by
  intro c i hwf hcodes
  rw [decode, readFormat_encode hwf hcodes, checkBounds, if_pos hwf]

/-! ## What was read is what is written -/

/-- An instruction of a format, encoded by exactly these bytes. -/
def WrittenAs (c : Config) (f : Format) (bs : List Byte) (i : Instr) : Prop := formatOf i = f ∧ encode c i = bs

section
variable {c : Config} {fmt : Format} {pre r : List Byte} {i : Instr}

/-- A reader's answer is written as the selector's bytes and the bytes it read, if every operand is. -/
theorem writtenAs_of_readNone {j : Instr} (h : readNone j r = .ok i) (hj : WrittenAs c fmt pre j) :
    WrittenAs c fmt (pre ++ r) i := by
  match r, h with
  | [], h => exact Decoded.ok.inj h ▸ (List.append_nil pre).symm ▸ hj

theorem writtenAs_of_readHalf {f : Half → Instr} (h : readHalf f r = .ok i)
    (hf : ∀ v, WrittenAs c fmt (pre ++ bytes16 v) (f v)) : WrittenAs c fmt (pre ++ r) i := by
  match r, h with
  | [a, b], h => exact Decoded.ok.inj h ▸ bytes16_be16 a b ▸ hf (be16 a b)

theorem writtenAs_of_readWord {f : Word → Instr} (h : readWord f r = .ok i)
    (hf : ∀ v, WrittenAs c fmt (pre ++ bytes32 v) (f v)) : WrittenAs c fmt (pre ++ r) i := by
  match r, h with
  | [a, b, x, y], h => exact Decoded.ok.inj h ▸ bytes32_be32 a b x y ▸ hf (be32 a b x y)

theorem writtenAs_of_readFlag {f : Bool → Instr} (h : readFlag f r = .ok i)
    (hf : ∀ b, WrittenAs c fmt (pre ++ [flagByte b]) (f b)) : WrittenAs c fmt (pre ++ r) i := by
  match r, h with
  | [a], h =>
    simp only [readFlag] at h
    split at h
    · next ha => exact Decoded.ok.inj h ▸ ha ▸ hf false
    · split at h
      · next ha => exact Decoded.ok.inj h ▸ ha ▸ hf true
      · cases h

theorem writtenAs_of_readCallback {f : Callback → Instr} (h : readCallback f r = .ok i)
    (hf : ∀ cb, WrittenAs c fmt (pre ++ callbackBytes cb) (f cb)) : WrittenAs c fmt (pre ++ r) i := by
  match r, h with
  | [t], h =>
    simp only [readCallback] at h
    split at h
    · next ht => exact Decoded.ok.inj h ▸ ht ▸ hf none
    · split at h <;> cases h
  | [t, a, b, x, y], h =>
    simp only [readCallback] at h
    split at h
    · next ht =>
      have hbytes : callbackBytes (some (be32 a b x y)) = [1, a, b, x, y] := congrArg (1 :: ·) (bytes32_be32 a b x y)
      exact Decoded.ok.inj h ▸ ht ▸ hbytes ▸ hf (some (be32 a b x y))
    · split at h <;> cases h

theorem writtenAs_of_readLed {f : LedInfo → Instr} (h : readLed f r = .ok i)
    (hf : ∀ l, WrittenAs c fmt (pre ++ ledBytes l) (f l)) : WrittenAs c fmt (pre ++ r) i := by
  match r, h with
  | [a, b, x, y, z], h => exact Decoded.ok.inj h ▸ hf ⟨a, b, x, y, z⟩

end

theorem writtenAs_of_readBuildFrame {c : Config} {r : List Byte} {i : Instr} (h : readBuildFrame r = .ok i) :
    WrittenAs c .opsel (0x02 :: r) i := by
  match r, h with
  | a :: b :: p, h =>
    refine Decoded.ok.inj h ▸ ⟨rfl, ?_⟩
    rw [encode, bytes16_be16]
    rfl

theorem writtenAs_of_readSendAndAwait {c : Config} {r : List Byte} {i : Instr} (h : readSendAndAwait r = .ok i) :
    WrittenAs c .opsel (0x20 :: r) i := by
  match r, h with
  | a :: b :: t0 :: t1 :: t2 :: t3 :: p, h =>
    refine Decoded.ok.inj h ▸ ⟨rfl, ?_⟩
    rw [encode, BitVec.ofNat_toNat, BitVec.setWidth_eq, bytes16_be16, bytes32_be32]
    rfl

theorem writtenAs_of_readAutoEnroll {c : Config} {r : List Byte} {i : Instr} (h : readAutoEnroll r = .ok i) :
    WrittenAs c .opsel (0x33 :: r) i := by
  match r, h with
  | a :: b :: n :: cb, h =>
    refine writtenAs_of_readCallback (pre := [0x33, a, b, n]) h (fun cb => ⟨rfl, ?_⟩)
    rw [encode, bytes16_be16]
    rfl

theorem writtenAs_of_readAsyncEnroll {c : Config} {r : List Byte} {i : Instr} (h : readAsyncEnroll r = .ok i) :
    WrittenAs c .opsel (0x35 :: r) i := by
  match r, h with
  | [a, b, n], h =>
    refine Decoded.ok.inj h ▸ ⟨rfl, ?_⟩
    rw [encode, bytes16_be16]
    rfl

theorem writtenAs_of_readSetPassword {c : Config} {r : List Byte} {i : Instr} (h : readSetPassword r = .ok i) :
    WrittenAs c .opsel (0x39 :: r) i := by
  match r, h with
  | a :: b :: x :: y :: fl, h =>
    refine writtenAs_of_readFlag (pre := [0x39, a, b, x, y]) h (fun fl => ⟨rfl, ?_⟩)
    rw [encode, bytes32_be32]
    rfl

theorem writtenAs_of_readResponse {c : Config} {r : List Byte} {i : Instr} (h : readResponse r = .ok i) :
    WrittenAs c .appIn r i := by
  match r, h with
  | a :: b :: p0 :: p1 :: p2 :: p3 :: e0 :: e1 :: e2 :: e3 :: p, h =>
    refine Decoded.ok.inj h ▸ ⟨rfl, ?_⟩
    rw [encode, bytes16_be16, bytes32_be32, bytes32_be32]
    rfl

/-- The delete command: the mode byte tells its two rows apart. -/
theorem writtenAs_of_readDelete {c : Config} {r : List Byte} {i : Instr} (h : readDelete r = .ok i) :
    WrittenAs c .appOut (bytes16 codeDelete ++ r) i := by
  match r, h with
  | m :: r, h =>
    simp only [readDelete] at h
    split at h
    · next hm =>
      subst hm
      exact writtenAs_of_readHalf (pre := bytes16 codeDelete ++ [0]) (f := .cmdDeleteOne) h (fun _ => ⟨rfl, rfl⟩)
    · split at h
      · next hm =>
        subst hm
        exact writtenAs_of_readNone (pre := bytes16 codeDelete ++ [1]) h ⟨rfl, rfl⟩
      · cases h

theorem writtenAs_of_readCmdAutoEnroll {c : Config} {r : List Byte} {i : Instr} (h : readCmdAutoEnroll r = .ok i) :
    WrittenAs c .appOut (bytes16 codeAutoEnroll ++ r) i := by
  match r, h with
  | [n, a, b], h =>
    refine Decoded.ok.inj h ▸ ⟨rfl, ?_⟩
    rw [encode, bytes16_be16]

theorem eq_of_toNat {w n : Nat} {o : BitVec w} (h : o.toNat = n) : o = BitVec.ofNat w n := by
  rw [← h, BitVec.ofNat_toNat, BitVec.setWidth_eq]

theorem encode_transmit (c : Config) (v : Half) : encode c (.transmit v.toNat) = 0x11 :: bytes16 v := by
  rw [encode, ← eq_of_toNat rfl]

theorem encode_delayMs (c : Config) (v : Word) : encode c (.delayMs v.toNat) = 0x14 :: bytes32 v := by
  rw [encode, ← eq_of_toNat rfl]

/-- The rows of the ordinals, by the reader of their operands. -/
theorem writtenAs_of_readOrdinal {c : Config} {o : Byte} {r : List Byte} {i : Instr} (h : readOrdinal o r = .ok i) :
    WrittenAs c .opsel (o :: r) i := by
  unfold readOrdinal at h
  split at h
  case h_29 => cases h
  all_goals
    rename_i ho
    obtain rfl := eq_of_toNat ho
  case h_1 => exact Decoded.ok.inj h ▸ ⟨rfl, rfl⟩
  case h_2 => exact writtenAs_of_readBuildFrame h
  case h_5 => exact writtenAs_of_readHalf (pre := [_]) h (fun v => ⟨rfl, encode_transmit c v⟩)
  case h_8 => exact writtenAs_of_readWord (pre := [_]) h (fun v => ⟨rfl, encode_delayMs c v⟩)
  case h_11 => exact writtenAs_of_readSendAndAwait h
  case h_15 => exact writtenAs_of_readAutoEnroll h
  case h_17 => exact writtenAs_of_readAsyncEnroll h
  case h_21 => exact writtenAs_of_readSetPassword h
  case h_24 => exact writtenAs_of_readFlag (pre := [_]) h (fun _ => ⟨rfl, rfl⟩)
  case h_25 => exact writtenAs_of_readLed (pre := [_]) h (fun _ => ⟨rfl, rfl⟩)
  case h_9 | h_18 | h_22 => exact writtenAs_of_readHalf (pre := [_]) h (fun _ => ⟨rfl, rfl⟩)
  case h_26 | h_27 | h_28 => exact writtenAs_of_readCallback (pre := [_]) h (fun _ => ⟨rfl, rfl⟩)
  all_goals exact writtenAs_of_readNone (pre := [_]) h ⟨rfl, rfl⟩

/-- One row of the command codes and the rows after it. -/
theorem writtenAs_of_row {c : Config} {code row : Half} {r : List Byte} {i : Instr} {this after : Decoded}
    (h : (if code = row then this else after) = .ok i)
    (hthis : this = .ok i → WrittenAs c .appOut (bytes16 row ++ r) i)
    (hafter : after = .ok i → WrittenAs c .appOut (bytes16 code ++ r) i) :
    WrittenAs c .appOut (bytes16 code ++ r) i := by
  split at h
  · next hcode => exact hcode ▸ hthis h
  · exact hafter h

theorem writtenAs_of_readOpenCode {c : Config} {code : Half} {r : List Byte} {i : Instr}
    (h : readOpenCode c code r = .ok i) : WrittenAs c .appOut (bytes16 code ++ r) i := by
  refine writtenAs_of_row h (writtenAs_of_readFlag · fun _ => ⟨rfl, rfl⟩) fun h => ?_
  exact writtenAs_of_row h (writtenAs_of_readLed · fun _ => ⟨rfl, rfl⟩) nofun

/-- The rows of the command codes. -/
theorem writtenAs_of_readCode {c : Config} {code : Half} {r : List Byte} {i : Instr} (h : readCode c code r = .ok i) :
    WrittenAs c .appOut (bytes16 code ++ r) i := by
  refine writtenAs_of_row h (writtenAs_of_readNone · ⟨rfl, rfl⟩) fun h => ?_
  refine writtenAs_of_row h writtenAs_of_readCmdAutoEnroll fun h => ?_
  refine writtenAs_of_row h (writtenAs_of_readNone · ⟨rfl, rfl⟩) fun h => ?_
  refine writtenAs_of_row h (writtenAs_of_readNone · ⟨rfl, rfl⟩) fun h => ?_
  refine writtenAs_of_row h writtenAs_of_readDelete fun h => ?_
  refine writtenAs_of_row h (writtenAs_of_readNone · ⟨rfl, rfl⟩) fun h => ?_
  refine writtenAs_of_row h (writtenAs_of_readNone · ⟨rfl, rfl⟩) fun h => ?_
  refine writtenAs_of_row h (writtenAs_of_readWord · fun _ => ⟨rfl, rfl⟩) fun h => ?_
  refine writtenAs_of_row h (writtenAs_of_readWord · fun _ => ⟨rfl, rfl⟩) fun h => ?_
  refine writtenAs_of_row h (writtenAs_of_readHalf · fun _ => ⟨rfl, rfl⟩) fun h => ?_
  exact writtenAs_of_row h (writtenAs_of_readNone · ⟨rfl, rfl⟩) writtenAs_of_readOpenCode

theorem writtenAs_of_readFormat {c : Config} {f : Format} {bs : List Byte} {i : Instr}
    (h : readFormat c f bs = .ok i) : WrittenAs c f bs i := by
  match f, bs, h with
  | .opsel, o :: r, h => exact writtenAs_of_readOrdinal h
  | .appOut, a :: b :: r, h =>
    have hcode : WrittenAs c .appOut (bytes16 (be16 a b) ++ r) i := writtenAs_of_readCode h
    rwa [bytes16_be16] at hcode
  | .appIn, bs, h => exact writtenAs_of_readResponse h

/-- Settles O59: each operand reader takes every byte it is given, and accepts only those that are written for its
operand. -/
theorem encodeOfDecode : Obligations.EncodeOfDecode := by
  intro c f bs i h
  unfold decode checkBounds at h
  split at h
  · next j hread =>
    split at h
    · next hwf => exact Decoded.ok.inj h ▸ ⟨hwf, writtenAs_of_readFormat hread⟩
    · cases h
  · cases h

/-- Settles O60: the words are constants, and the two bytes of a code settle which row it selects. -/
theorem someWordsDecode : Obligations.SomeWordsDecode :=
  fun _ => ⟨rfl, rfl, rfl, rfl, rfl, rfl, rfl, rfl⟩

end Sys2Proof

/-! The codec's two corners: a payload too long to build, and application lengths up to 10 (40_codec.md). -/

namespace Sys2Proof.Machine

/-! ## BUILD_FRAME's precondition (R123) -/

theorem fitsTx_of_bounds {s : State} {p : List Byte} (hcap : 18 + p.length ≤ s.cfg.txCap)
    (hlen : 7 + p.length ≤ 65535) : fitsTx s p = true :=
  (fitsTx_iff s p).mpr ⟨hcap, hlen⟩

theorem not_fitsTx_of_oversized {s : State} {p : List Byte} (h : s.cfg.txCap < 18 + p.length ∨ 65535 < 7 + p.length) :
    ¬ fitsTx s p = true := by
  rw [fitsTx_iff]
  omega

theorem sendRequest_oversized {good bad : State → State} {s : State}
    (h : s.cfg.txCap < 18 + s.fg.payload.length ∨ 65535 < 7 + s.fg.payload.length) :
    sendRequest good bad s = .refused .payloadTooLong :=
  if_neg (not_fitsTx_of_oversized h)

/-- Step `Send` of every operation that uses the line is one building and handing over of the latched request. -/
theorem exec_send {i : Instr} {s : State} (huses : usesLine i = true) (hphase : s.fg.phase = .send)
    (hinstr : s.fg.instr = some i) : ∃ good bad, exec i s = sendRequest good bad s := by
  have hactive : s.fg.phase ≠ .idle := by rw [hphase]; decide
  rcases usesLine_cases huses s.cfg with ⟨cmd, p, hrequest⟩ | ⟨f, n, cb, henroll⟩ | ⟨x, cmd, p, hstart⟩
  · rw [exec_request_step (Option.isSome_of_eq_some hrequest) hactive hinstr]
    exact ⟨_, _, by simp only [exchangeStep, hphase]; rfl⟩
  · rw [exec_enrollment_step henroll hactive hinstr]
    exact ⟨_, _, by simp only [enrollStep, hphase]; rfl⟩
  · rw [exec_start_step hstart hactive hinstr]
    exact ⟨_, _, by simp only [startStep, hphase]; rfl⟩

/-- Settles O4: BUILD_FRAME and the one step by which every operation builds look at the same precondition first. -/
theorem buildFrameRefusesOversizedPayload : Obligations.BuildFrameRefusesOversizedPayload := by
  refine ⟨fun s cmd p hidle hlong => ?_, fun i s huses hphase hinstr hlong => ?_⟩
  · exact (whenIdle_of_idle _ hidle).trans (if_neg (not_fitsTx_of_oversized hlong))
  · obtain ⟨good, bad, hsend⟩ := exec_send huses hphase hinstr
    exact hsend.trans (sendRequest_oversized hlong)

/-! ## Short application lengths (R127) -/

/-- Settles O6: the last of the six checks bounds the length from below; at length 10 the payload length is clamped to
0. -/
theorem shortApplicationLengths : Obligations.ShortApplicationLengths := by
  intro raw m hm
  have hlow : claimedLen raw < m → parseFrame m raw = .invalid := fun hlt =>
    parseFrame_of_not_checks fun ⟨_, _, _, _, _, _, hmin⟩ => by omega
  refine ⟨fun h => hlow (by omega), fun h hm => hlow (by omega), fun h hm hlen hmagic hlink happ => ?_⟩
  have hchecks : FrameChecks m raw := by
    rw [FrameChecks, h]
    exact ⟨by omega, hmagic, hlink, hlen, by decide, happ, hm.le⟩
  rw [parseFrame_of_checks hchecks, parsedFields, h]

end Sys2Proof.Machine

/-! The step: which agent moves, and what it runs (00_scope.md section Agents, 60_exceptions.md, 70_reset_and_hazards.md
section One foreground operation at a time). -/

namespace Sys2Proof.Machine

/-! ## The agents -/

theorem pendingHandler_receive {s : State} {k : Half} (h : s.pend.rx = some k) :
    pendingHandler s = some (.onUartReceive k) := by
  rw [pendingHandler, h]

theorem pendingHandler_transmit {s : State} (h : s.pend = ⟨none, true⟩) :
    pendingHandler s = some .onTransmitComplete := by
  rw [pendingHandler, h]
  rfl

section
variable {s : State} {r : List Event} {i : Instr} {go : State → Fetched}

/-- While a callback hangs neither context moves (R296). -/
theorem fetchForeground_hung (h : s.hung = true) :
    fetchForeground s { s with script := r } go = .moved { s with script := r } :=
  if_pos h

theorem fetchIrq_hung (h : s.hung = true) : fetchIrq { s with script := r } = .moved { s with script := r } :=
  if_pos h

theorem fetchEntry_hung (h : s.hung = true) :
    fetchEntry i s { s with script := r } = .moved { s with script := r } :=
  if_pos h

/-- A pending notification goes first and the foreground event stays (R293 d). -/
theorem fetchForeground_handler (hhung : s.hung = false) (hpend : pendingHandler s = some i) :
    fetchForeground s { s with script := r } go = .run i s := by
  rw [fetchForeground, if_neg (by rw [hhung]; decide), hpend]

theorem fetchForeground_free (hhung : s.hung = false) (hpend : s.pend = ⟨none, false⟩) :
    fetchForeground s { s with script := r } go = go { s with script := r } := by
  rw [fetchForeground, if_neg (by rw [hhung]; decide), pendingHandler_quiet hpend]

theorem fetchIrq_handler (hhung : s.hung = false) (hpend : pendingHandler s = some i) :
    fetchIrq { s with script := r } = .run i { s with script := r } := by
  have hpend' : pendingHandler { s with script := r } = some i := hpend
  rw [fetchIrq, if_neg (by rw [hhung]; decide), hpend']

theorem fetchNextStep_asleep (hactive : s.fg.phase ≠ .idle) (hsleep : s.fg.sleep ≠ 0) : fetchNextStep s = .moved s := by
  rw [fetchNextStep, if_neg hactive, if_pos hsleep]

theorem fetchNextStep_awake (hactive : s.fg.phase ≠ .idle) (hsleep : s.fg.sleep = 0) (hinstr : s.fg.instr = some i) :
    fetchNextStep s = .run i s := by
  rw [fetchNextStep, if_neg hactive, if_neg (not_not.mpr hsleep), hinstr]

end

/-! ## The events of the script -/

section
variable {s : State} {r : List Event}

theorem dropEvent_of_script {e : Event} (h : s.script = e :: r) : dropEvent s = { s with script := r } := by
  rw [dropEvent, h]
  rfl

/-- What each event makes of the fetch, and for an agent that runs no instruction of the step. -/
theorem fetch_fg (h : s.script = .fg :: r) : fetch s = fetchForeground s { s with script := r } fetchNextStep := by
  simp only [fetch, h, dropEvent_of_script h]

theorem fetch_irq (h : s.script = .irq :: r) : fetch s = fetchIrq { s with script := r } := by
  simp only [fetch, h, dropEvent_of_script h]

theorem step_rxe (h : s.script = .rxe :: r) : step s = .next (rxeStep { s with script := r }) := by
  simp only [step, fetch, h, dropEvent_of_script h]

theorem step_txe (h : s.script = .txe :: r) : step s = .next (txeStep { s with script := r }) := by
  simp only [step, fetch, h, dropEvent_of_script h]

theorem step_tick (h : s.script = .tick :: r) : step s = .next (tickStep { s with script := r }) := by
  simp only [step, fetch, h, dropEvent_of_script h]

theorem step_peerTake (h : s.script = .peerTake :: r) : step s = .next (peerTake { s with script := r }) := by
  simp only [step, fetch, h, dropEvent_of_script h]

theorem step_peerSend {b : Burst} (h : s.script = .peerSend b :: r) :
    step s = .next (peerSend b { s with script := r }) := by
  simp only [step, fetch, h, dropEvent_of_script h]

variable {f : Format} {bs : List Byte} {i : Instr}

/-- An issued instruction goes to the agent that runs it. -/
theorem fetch_issue_foreground (h : s.script = .issue f bs :: r) (hdecode : decode s.cfg f bs = .ok i)
    (hagent : agentOf i = .foreground) :
    fetch s = fetchForeground s { s with script := r } (fetchCall i) := by
  simp only [fetch, h, fetchIssued, dropEvent_of_script h, hdecode, hagent]

theorem fetch_issue_notification (h : s.script = .issue f bs :: r) (hdecode : decode s.cfg f bs = .ok i)
    (hagent : agentOf i = .notification) : fetch s = fetchEntry i s { s with script := r } := by
  simp only [fetch, h, fetchIssued, dropEvent_of_script h, hdecode, hagent]

theorem fetch_issue_peer (h : s.script = .issue f bs :: r) (hdecode : decode s.cfg f bs = .ok i)
    (hagent : agentOf i = .peer) : fetch s = .run i { s with script := r } := by
  simp only [fetch, h, fetchIssued, dropEvent_of_script h, hdecode, hagent]

end

/-! ## The rules of who may move -/

/-- Settles O49: each agent's fetch, under its conditions, is the decoded instruction or the one in progress. -/
theorem stepRunsTheDecodedInstruction : Obligations.StepRunsTheDecodedInstruction := by
  intro s rest i
  refine ⟨fun f bs hscript hdecode => ⟨fun hagent hhung hpend hidle => ?_, fun hagent hhung hfirst => ?_,
    fun hagent => ?_⟩, fun hscript hhung hpend hactive hsleep hinstr => ?_⟩
  · rw [step, fetch_issue_foreground hscript hdecode hagent, fetchForeground_free hhung hpend, fetchCall, if_pos hidle]
  · rw [step, fetch_issue_notification hscript hdecode hagent,
      fetchEntry_run (t := { s with script := rest }) hhung hfirst]
  · rw [step, fetch_issue_peer hscript hdecode hagent]
  · rw [step, fetch_fg hscript, fetchForeground_free hhung hpend,
      fetchNextStep_awake (s := { s with script := rest }) hactive hsleep hinstr]

/-- Settles O51: with nothing pending and nothing hung the call is fetched, and a call needs `Idle`. -/
theorem overlappingOperationIsRefused : Obligations.OverlappingOperationIsRefused := by
  intro s f bs rest i hscript hdecode hagent hhung hpend hactive
  rw [step, fetch_issue_foreground hscript hdecode hagent, fetchForeground_free hhung hpend, fetchCall, if_neg hactive]

theorem exec_onTransmitComplete {s : State} (h : s.pend = ⟨none, true⟩) :
    exec .onTransmitComplete s = .next { s with pend := ⟨none, false⟩ } := by
  simp only [exec, execOnTransmitComplete, h]

/-- An event by which `FG` is to move is one fetch of the foreground, whatever it is to go on with. -/
theorem fetch_foreground {s : State} {e : Event} {rest : List Event} (h : s.script = e :: rest)
    (hfore : e = .fg ∨ ∃ i, (∃ f bs, e = .issue f bs ∧ decode s.cfg f bs = .ok i) ∧ agentOf i = .foreground) :
    ∃ go, fetch s = fetchForeground s { s with script := rest } go := by
  rcases hfore with rfl | ⟨i, ⟨f, bs, rfl, hdecode⟩, hagent⟩
  · exact ⟨_, fetch_fg h⟩
  · exact ⟨_, fetch_issue_foreground h hdecode hagent⟩

/-- Settles O50: the fetch of a foreground event looks at the hang, then at the pending handler, and only then at what
`FG` would do. -/
theorem notificationGoesFirst : Obligations.NotificationGoesFirst := by
  intro s rest e hscript issues foreground entry
  refine ⟨fun hevent hhung k hpend => ?_, fun hevent hhung hpend => ?_, fun hevent hhung k hpend => ?_,
    fun hevent hhung => ?_⟩
  · rcases hevent with hfore | ⟨f, bs, rfl, hdecode⟩
    · obtain ⟨go, hfetch⟩ := fetch_foreground hscript hfore
      rw [step, hfetch, fetchForeground_handler hhung (pendingHandler_receive hpend)]
    · rw [step, fetch_issue_notification hscript hdecode rfl,
        fetchEntry_waits (t := { s with script := rest }) hhung hpend]
  · obtain ⟨go, hfetch⟩ := fetch_foreground hscript hevent
    rw [step, hfetch, fetchForeground_handler hhung (pendingHandler_transmit hpend)]
    exact exec_onTransmitComplete hpend
  · subst hevent
    rw [step, fetch_irq hscript, fetchIrq_handler hhung (pendingHandler_receive hpend)]
  · rcases hevent with hfore | rfl | ⟨i, ⟨f, bs, rfl, hdecode⟩, hagent⟩
    · obtain ⟨go, hfetch⟩ := fetch_foreground hscript hfore
      rw [step, hfetch, fetchForeground_hung hhung]
    · rw [step, fetch_irq hscript, fetchIrq_hung hhung]
    · rw [step, fetch_issue_notification hscript hdecode hagent, fetchEntry_hung hhung]

/-! ## The notification outside and without a session (R178, R324) -/

/-- Settles O41: with no session the handler records the size and sets the flag. -/
theorem notificationSetsReady : Obligations.NotificationSetsReady := by
  intro s k hnone hpend hsize
  rw [exec_notification hpend hsize, handleReceive, if_pos hnone]
  rfl

/-- Settles O48: the two guards of ON_UART_RECEIVE, in their order. -/
theorem spuriousNotificationIsRefused : Obligations.SpuriousNotificationIsRefused := by
  intro s k
  refine ⟨fun hpend => if_neg hpend, fun hpend hsize => ?_⟩
  exact (if_pos hpend).trans (if_neg (Nat.not_le.mpr hsize))

end Sys2Proof.Machine

/-! The transport: its operations, the engines, the peer and the tick (41_transport.md). -/

namespace Sys2Proof.Machine

/-! ## The operations (R141 to R145, R153) -/

theorem startReceive_given {s : State} {a : Bool} {r : List Bool} (h : s.answers = a :: r) :
    startReceive s = (a, { s with answers := r, rxArmed := a || s.rxArmed }) := by
  cases a
  · exact startReceive_false h
  · exact startReceive_true h

/-- With no answer listed the answer is a free value (assumption 3). -/
theorem startReceive_free {s : State} (h : s.answers = []) :
    startReceive s = (Config.freeBool s.draws,
      { s with draws := s.draws + 1, rxArmed := Config.freeBool s.draws || s.rxArmed }) := by
  simp only [startReceive, drawAnswer, h, drawBool]
  cases Config.freeBool s.draws <;> rfl

theorem transmit_free (n : Nat) {s : State} (h : s.answers = []) :
    transmit n s = (Config.freeBool s.draws, { s with
      draws := s.draws + 1, txBusy := Config.freeBool s.draws || s.txBusy,
      txLen := if Config.freeBool s.draws then n else s.txLen }) := by
  simp only [transmit, drawAnswer, h, drawBool]
  cases Config.freeBool s.draws <;> rfl

/-- Settles O9: the answer is the listed one or a free one, and only a true answer arms. -/
theorem startReceiveArmsOnTrue : Obligations.StartReceiveArmsOnTrue := by
  intro s hidle
  have hexec : exec .startReceive s = runStartReceive s := whenIdle_of_idle _ hidle
  refine ⟨fun a r hanswers => ?_, fun hanswers => ?_⟩
  · rw [hexec, runStartReceive, startReceive_given hanswers]
    rfl
  · rw [hexec, runStartReceive, startReceive_free hanswers]
    rfl

theorem exec_transmit_of_le {s : State} {n : Nat} (hidle : s.fg.phase = .idle) (hn : n ≤ s.cfg.txCap) :
    exec (.transmit n) s = .next (answerCaller (.answer (transmit n s).1) (transmit n s).2) :=
  (whenIdle_of_idle _ hidle).trans (if_pos hn)

/-- Settles O10: within `TX` the answer, listed or free, decides what is noted; a longer span is no span. -/
theorem transmitHandsOverTheSpan : Obligations.TransmitHandsOverTheSpan := by
  intro s n hidle
  refine ⟨fun hlong => ?_, fun hn r hanswers => ?_, fun hn r hanswers => ?_, fun hn hanswers => ?_⟩
  · exact (whenIdle_of_idle _ hidle).trans (if_neg (by omega))
  · rw [exec_transmit_of_le hidle hn, transmit_true hanswers]
    rfl
  · rw [exec_transmit_of_le hidle hn, transmit_false hanswers]
    rfl
  · rw [exec_transmit_of_le hidle hn, transmit_free n hanswers]
    rfl

/-- After an abort every byte of `RX` is a free one of a new epoch (R143). -/
theorem rxByte_of_aborted {s t : State} (hrx : t.rx = []) (hepoch : t.rxEpoch = s.rxEpoch + 1) :
    t.rxEpoch ≠ s.rxEpoch ∧ ∀ a, t.rxByte a = Config.freeRxByte t.rxEpoch a := by
  refine ⟨by omega, fun a => ?_⟩
  rw [State.rxByte, hrx]
  rfl

/-- Settles O11: the abort empties the list of written bytes and counts the epoch up. -/
theorem abortDisarmsAndFreesRx : Obligations.AbortDisarmsAndFreesRx :=
  fun _ hidle => ⟨_, whenIdle_of_idle _ hidle, rfl, rxByte_of_aborted rfl rfl⟩

/-! ## DELAY_MS (R145) and ON_TRANSMIT_COMPLETE (R153) -/

theorem exec_delayMs_of_idle {s : State} (d : Nat) (h : s.fg.phase = .idle) :
    exec (.delayMs d) s = .next (beginDelay (.delayMs d) d s) := by
  rw [exec, execDelayMs, operation_of_idle _ _ _ h]

theorem exec_delayMs_ended {s : State} {d : Nat} (hphase : s.fg.phase = .done) (hinstr : s.fg.instr = some (.delayMs d))
    (hsleep : s.fg.sleep = 0) : exec (.delayMs d) s =
      .next (answerCaller .nothing { s with fg := { s.fg with phase := .idle, instr := none } }) := by
  rw [exec, execDelayMs, operation_in_progress _ _ (by rw [hphase]; decide) hinstr, if_pos hsleep]

/-- Settles O12: the call and the return of DELAY_MS, with the ticks and the idle foreground events between them. -/
theorem delaySuspendsTheForeground : Obligations.DelaySuspendsTheForeground := by
  intro s d
  refine ⟨exec_delayMs_of_idle d, fun r hscript => ⟨_, step_tick hscript, rfl⟩,
    fun r hscript hhung hpend hactive hsleep => ?_, exec_delayMs_ended⟩
  rw [step, fetch_fg hscript, fetchForeground_free hhung hpend,
    fetchNextStep_asleep (s := { s with script := r }) hactive hsleep.ne']

/-- Settles O13: the handler empties `pend.tx`, and `IRQ` takes it when nothing else is pending. -/
theorem transmitCompleteChangesNothing : Obligations.TransmitCompleteChangesNothing := by
  refine fun s => ⟨rfl, fun r hscript hhung hpend => ?_⟩
  rw [step, fetch_irq hscript, fetchIrq_handler hhung (pendingHandler_transmit hpend)]
  exact exec_onTransmitComplete (s := { s with script := r }) hpend

/-! ## The engines (R150, R152) -/

/-- Settles O14: the three things the receive engine can do, of which the burst in the line leaves two. -/
theorem receiveEngineDeliversOneBurst : Obligations.ReceiveEngineDeliversOneBurst := by
  intro s r b rest hscript hwire hcap
  refine ⟨_, step_rxe hscript, fun harmed => ?_, fun harmed => ?_⟩
  · simp only [rxeStep, hwire, harmed, Bool.false_eq_true, if_false]
  · have heq : rxeStep { s with script := r } = { s with
        script := r, wireIn := rest, rx := Memory.writeBytes s.rx 0 (b.take (min b.length s.cfg.rxCap)),
        rxArmed := false, pend := ⟨some (BitVec.ofNat 16 (min b.length s.cfg.rxCap)), s.pend.tx⟩ } := by
      simp only [rxeStep, hwire, harmed, if_true]
    have hlen : (b.take (min b.length s.cfg.rxCap)).length = min b.length s.cfg.rxCap := by
      rw [List.length_take]
      omega
    have htake : b.take (min b.length s.cfg.rxCap) = b.take s.cfg.rxCap := by
      rw [Nat.min_comm, ← List.take_take, List.take_length]
    generalize rxeStep { s with script := r } = t at heq
    have hrx : t.rx = Memory.writeBytes s.rx 0 (b.take (min b.length s.cfg.rxCap)) := by rw [heq]
    refine ⟨by rw [heq], by rw [heq], ⟨_, by rw [heq], ?_⟩, ?_, fun a ha => ?_⟩
    · rw [BitVec.toNat_ofNat]
      omega
    · rw [State.rxBytes_of_write hrx hlen.symm, htake]
    · exact State.rxByte_past_write hrx (by rw [heq]) (hlen.symm ▸ ha)

theorem putBurst_of_ne_nil (q : List Burst) {b : Burst} (h : b ≠ []) : putBurst q b = q ++ [b] := if_neg h

theorem txeStep_of_busy {s : State} (hbusy : s.txBusy = true) :
    txeStep s = { s with
      wireOut := putBurst s.wireOut (s.txBytes 0 s.txLen), txBusy := false, pend := ⟨s.pend.rx, true⟩,
      sent := putBurst s.sent (s.txBytes 0 s.txLen) } :=
  if_pos hbusy

theorem txeStep_of_not_busy {s : State} (hbusy : s.txBusy = false) : txeStep s = s :=
  if_neg (by rw [hbusy]; decide)

/-- Settles O15: the burst is what `TX` holds at the step, and an empty one is none. -/
theorem transmitEngineSendsTheSpan : Obligations.TransmitEngineSendsTheSpan := by
  intro s r hscript
  refine ⟨fun hbusy hlen => ?_, fun hbusy hlen => ?_, fun hbusy => ?_⟩
  · have hne : s.txBytes 0 s.txLen ≠ [] := List.ne_nil_of_length_pos (by rwa [State.txBytes_length])
    have hburst := txeStep_of_busy (s := { s with script := r }) hbusy
    rw [step_txe hscript, hburst, ← putBurst_of_ne_nil s.wireOut hne, ← putBurst_of_ne_nil s.sent hne]
    rfl
  · have hempty := txeStep_of_busy (s := { s with script := r }) hbusy
    rw [step_txe hscript, hempty]
    simp only [hlen]
    rfl
  · exact (step_txe hscript).trans (congrArg _ (txeStep_of_not_busy hbusy))

/-! ## The tick and the peer (R144, R160, R161) -/

/-- Settles O16: the sum of tick and one reaches `2 ^ TICK_BITS` in one case, and there it wraps to 0. -/
theorem tickIsCountedAndRead : Obligations.TickIsCountedAndRead := by
  refine fun s => ⟨fun r hscript htick => ?_, fun hidle => whenIdle_of_idle _ hidle⟩
  have hwrap : (s.tick + 1) % 2 ^ s.cfg.tickBits = if s.tick + 1 = 2 ^ s.cfg.tickBits then 0 else s.tick + 1 := by
    split
    · next hfull => rw [hfull, Nat.mod_self]
    · exact Nat.mod_eq_of_lt (by omega)
  rw [step_tick hscript, ← hwrap]
  rfl

/-- Settles O17: the peer's two moves, and RESPONSE as the second of them with the frame of R86. -/
theorem peerTakesAndSends : Obligations.PeerTakesAndSends := by
  intro s
  refine ⟨fun r b rest hscript hwire => ?_, fun r b hscript hne => ?_, fun ack pw err p hlen => ?_,
    fun ack pw err p hlen => if_neg (by rw [maxInPayload]; omega)⟩
  · rw [step_peerTake hscript, peerTake]
    simp only [hwire, List.tail_cons]
  · rw [step_peerSend hscript, peerSend, putBurst_of_ne_nil _ hne]
  · have hfits : p.length ≤ maxInPayload := by rw [maxInPayload]; omega
    have hne : inFrame pw ack err p ≠ [] := List.ne_nil_of_length_pos (by rw [inFrame_length]; omega)
    calc exec (.response ack pw err p) s = .next (peerSend (inFrame pw ack err p) s) := if_pos hfits
      _ = _ := by
        rw [peerSend, putBurst_of_ne_nil _ hne]
        simp only [inFrame, linkLayer, sealed, inFields, List.append_assoc]

end Sys2Proof.Machine

/-! The dispatcher: the numbered steps of every synchronous request (42_dispatcher.md). -/

namespace Sys2Proof.Machine

/-! ## The call and `Check` (R170, R171) -/

theorem exec_call {i : Instr} {s : State} {cmd : Half} {p : List Byte} (h : exchangeRequest s.cfg i = some (cmd, p))
    (hidle : s.fg.phase = .idle) : exec i s = .next (beginCall i cmd p s) := by
  rw [exec_request h, exchange, operation_of_idle _ _ _ hidle]

/-- Settles O18: from `Idle` every request is its call. -/
theorem callLatchesTheRequest : Obligations.CallLatchesTheRequest :=
  fun _ _ _ _ hrequest hidle => ⟨_, exec_call hrequest hidle, rfl, rfl, rfl, rfl, rfl⟩

theorem checkStep_of_none (next : Phase) {s : State} (h : s.op = .none) : checkStep next s = setPhase next s :=
  if_neg (not_not.mpr h)

/-! ## The steps in progress -/

section
variable {i : Instr} {s : State} (hreq : (exchangeRequest s.cfg i).isSome = true) (hi : s.fg.instr = some i)
include hreq hi

theorem exec_check (hp : s.fg.phase = .check) (hnone : s.op = .none) : exec i s = .next (setPhase .arm s) := by
  rw [exec_request_step hreq (by rw [hp]; decide) hi, exchangeStep, hp]
  exact congrArg _ (checkStep_of_none _ hnone)

theorem exec_arm (hp : s.fg.phase = .arm) : exec i s = .next (armStep s) := by
  rw [exec_request_step hreq (by rw [hp]; decide) hi, exchangeStep, hp]

theorem exec_sendStep (hp : s.fg.phase = .send) : exec i s = sendStep (exchangeWindow i) s := by
  rw [exec_request_step hreq (by rw [hp]; decide) hi, exchangeStep, hp]

theorem exec_parse (hp : s.fg.phase = .parse) : exec i s = parseStep s := by
  rw [exec_request_step hreq (by rw [hp]; decide) hi, exchangeStep, hp]

end

/-- A synchronous operation in progress takes a step of a request or of the enrollment. -/
theorem exec_sync_step {i : Instr} {s : State} (hsync : isSync i = true) (hi : s.fg.instr = some i)
    (hactive : s.fg.phase ≠ .idle) :
    (∃ window finish, exec i s = exchangeStep window finish s) ∨ ∃ cb, exec i s = enrollStep cb s := by
  rcases isSync_cases hsync s.cfg with ⟨cmd, p, hrequest⟩ | ⟨f, n, cb, henroll⟩
  · exact .inl ⟨_, _, exec_request_step (Option.isSome_of_eq_some hrequest) hactive hi⟩
  · exact .inr ⟨cb, exec_enrollment_step henroll hactive hi⟩

/-- The two have the same wait and the same abort (R174, R175, R238). -/
theorem exec_wait {i : Instr} {s : State} (hsync : isSync i = true) (hi : s.fg.instr = some i)
    (hp : s.fg.phase = .wait) : exec i s = .next (waitStep s) := by
  rcases exec_sync_step hsync hi (by rw [hp]; decide) with ⟨window, finish, h⟩ | ⟨cb, h⟩
  · rw [h, exchangeStep, hp]
  · rw [h, enrollStep, hp]

theorem exec_abort {i : Instr} {s : State} (hsync : isSync i = true) (hi : s.fg.instr = some i)
    (hp : s.fg.phase = .abort) : exec i s = .next (abortStep s) := by
  rcases exec_sync_step hsync hi (by rw [hp]; decide) with ⟨window, finish, h⟩ | ⟨cb, h⟩
  · rw [h, exchangeStep, hp]
  · rw [h, enrollStep, hp]

/-- Settles O20: the flag is cleared, and the answer decides. -/
theorem armClearsReadyAndArms : Obligations.ArmClearsReadyAndArms := by
  intro i s r hreq hphase hinstr
  refine ⟨fun hanswers => ?_, fun hanswers => ?_⟩
  · have harm := startReceive_true (s := clearReady s) hanswers
    rw [exec_arm hreq hinstr hphase, armStep, harm]
    rfl
  · have harm := startReceive_false (s := clearReady s) hanswers
    rw [exec_arm hreq hinstr hphase, armStep, harm]
    rfl

/-- Settles O21: what the answer decides about is one state, with the frame in `TX`. -/
theorem sendBuildsAndTransmits : Obligations.SendBuildsAndTransmits := by
  intro i s a r hreq hphase hinstr hcap hlen hanswers
  obtain ⟨m, hsend, hframe⟩ := sendRequest_given (good := openWindow (exchangeWindow i)) (bad := raise .transmitError 0)
    (fitsTx_of_bounds hcap hlen) hanswers
  refine ⟨_, (exec_sendStep hreq hinstr hphase).trans hsend, ?_, ?_, ?_, ?_⟩
  · exact (hframe _ (by cases a <;> rfl)).1
  · exact (hframe _ (by cases a <;> rfl)).2
  · rintro rfl
    rfl
  · rintro rfl
    rfl

/-- The wrapping subtraction of R174 gives back the elapsed time. -/
theorem elapsed_eq {s : State} {e : Nat} (ht0 : s.fg.t0 < 2 ^ s.cfg.tickBits) (he : e < 2 ^ s.cfg.tickBits)
    (hsum : (s.fg.t0 + e) % 2 ^ s.cfg.tickBits = s.tick) : elapsed s = e := by
  rw [elapsed, ← hsum]
  generalize 2 ^ s.cfg.tickBits = n at *
  rcases Nat.lt_or_ge (s.fg.t0 + e) n with hlow | hwrap
  · rw [Nat.mod_eq_of_lt hlow, show s.fg.t0 + e + n - s.fg.t0 = e + n by omega, Nat.add_mod_right, Nat.mod_eq_of_lt he]
  · rw [Nat.mod_eq_sub_mod hwrap, Nat.mod_eq_of_lt (a := s.fg.t0 + e - n) (by omega),
      show s.fg.t0 + e - n + n - s.fg.t0 = e by omega, Nat.mod_eq_of_lt he]

/-- Settles O22: the wait's two tests in their order, on the elapsed time. -/
theorem waitLooksAtFlagThenClock : Obligations.WaitLooksAtFlagThenClock := by
  intro i s hsync hphase hinstr ht0 _ e he hsum
  have helapsed := elapsed_eq ht0 he hsum
  rw [exec_wait hsync hinstr hphase, waitStep, helapsed]
  refine ⟨fun hrdy => ?_, fun hrdy hover => ?_, fun hrdy hwithin => ?_⟩
  · rw [if_pos hrdy]
    rfl
  · rw [if_neg (by rw [hrdy]; decide), if_pos hover]
    rfl
  · rw [if_neg (by rw [hrdy]; decide), if_neg (Nat.not_lt.mpr hwithin)]

/-- Settles O23: the abort, and then the raise of `Timeout`. -/
theorem abortStepReturnsTimeout : Obligations.AbortStepReturnsTimeout :=
  fun _ _ hsync hphase hinstr => ⟨_, exec_abort hsync hinstr hphase, rfl, rxByte_of_aborted rfl rfl⟩

/-- Step `Parse` of a request on a valid frame. -/
theorem parseStep_valid {s : State} {ack : Half} {err : Word} {sp : Span} (hsize : s.rxsz.toNat ≤ s.cfg.rxCap)
    (hframe : parseFrame s.cfg.minAppLen (s.rxBytes 0 s.rxsz.toNat) = .valid ack err sp) :
    parseStep s = .next { s with fg := { s.fg with
      phase := .done, span := some sp, result := if err = 0 then ⟨.ok, 0⟩ else ⟨.moduleError, err⟩ } } := by
  rw [parseStep, withParsed_of_le _ hsize, hframe]
  by_cases herr : err = 0
  · simp only [herr, ne_eq, not_true_eq_false, if_false, if_true]
    rfl
  · simp only [herr, ne_eq, not_false_eq_true, if_true, if_false]
    rfl

/-- Settles O24: the verdict decides, and with a valid frame its error code. -/
theorem parseStepGivesTheStatus : Obligations.ParseStepGivesTheStatus := by
  intro i s hreq hphase hinstr hsize
  refine ⟨fun hframe => ?_, fun ack err sp hframe => ?_⟩
  · rw [exec_parse hreq hinstr hphase, parseStep, withParsed_of_le _ hsize, hframe]
    rfl
  · rw [exec_parse hreq hinstr hphase, parseStep_valid hsize hframe]

/-! ## The first half of a request (R182, R184) -/

/-- From `Idle` with no session to `Send`, with the receiver armed. -/
theorem execTimes_to_send {i : Instr} {s : State} {cmd : Half} {p : List Byte} {r : List Bool}
    (hrequest : exchangeRequest s.cfg i = some (cmd, p)) (hidle : s.fg.phase = .idle) (hnone : s.op = .none)
    (hanswers : s.answers = true :: r) (n : Nat) :
    execTimes i (n + 3) s = execTimes i n { s with
      answers := r, rdy := false, rxArmed := true, fg := { (beginCall i cmd p s).fg with phase := .send } } := by
  have hreq : (exchangeRequest s.cfg i).isSome = true := Option.isSome_of_eq_some hrequest
  have hcheck := exec_check (s := beginCall i cmd p s) hreq rfl rfl hnone
  have harm := (armClearsReadyAndArms i (setPhase .arm (beginCall i cmd p s)) r hreq rfl rfl).1 hanswers
  rw [execTimes_of_next (exec_call hrequest hidle), execTimes_of_next hcheck, execTimes_of_next harm]
  rfl

/-- Settles O25: the call, `Check`, `Arm` and `Send` one after another. -/
theorem callReachesWaitWithItsFrame : Obligations.CallReachesWaitWithItsFrame := by
  intro i s cmd p r hrequest hidle hnone hanswers hcap hlen
  have hreq : (exchangeRequest s.cfg i).isSome = true := Option.isSome_of_eq_some hrequest
  have hfirst := execTimes_to_send hrequest hidle hnone hanswers 1
  obtain ⟨t, hsend, hframe, hrest, hstate, -⟩ := sendBuildsAndTransmits i { s with
    answers := true :: r, rdy := false, rxArmed := true, fg := { (beginCall i cmd p s).fg with phase := .send } }
    true r hreq rfl rfl hcap hlen rfl
  refine ⟨t, hfirst.trans (execTimes_of_next hsend), hframe, hrest, ?_⟩
  rw [hstate rfl]
  exact ⟨rfl, rfl, rfl, rfl, rfl⟩

/-! ## The second half of a request (R176, R177, R190) -/

/-- The result of a valid frame (R176). -/
def resultOf (err : Word) : CommandResult := if err = 0 then ⟨.ok, 0⟩ else ⟨.moduleError, err⟩

/-- The state of a request at `Done` after a reply with `p` payload bytes. -/
def repliedState (err : Word) (p : List Byte) (s : State) : State :=
  { s with fg := { s.fg with phase := .done, span := some ⟨21, p.length⟩, result := resultOf err } }

/-- From a flagged `Wait` to `Done` on an inbound frame in `RX`. -/
theorem execTimes_to_done {i : Instr} {s : State} {pw err : Word} {ack : Half} {p : List Byte}
    (hreq : (exchangeRequest s.cfg i).isSome = true) (hphase : s.fg.phase = .wait) (hinstr : s.fg.instr = some i)
    (hrdy : s.rdy = true) (hmin : s.cfg.minAppLen ≤ 11) (hcap : 22 + p.length ≤ s.cfg.rxCap)
    (hsize : s.rxsz.toNat = 22 + p.length) (hframe : s.rxBytes 0 (22 + p.length) = inFrame pw ack err p) (n : Nat) :
    execTimes i (n + 2) s = execTimes i n (repliedState err p s) := by
  have hsync : isSync i = true := by
    rw [isSync, exchangeRequest_isSome _ s.cfg, hreq]
    rfl
  have hwait : exec i s = .next (setPhase .parse s) := by
    rw [exec_wait hsync hinstr hphase, waitStep, if_pos hrdy]
  have hfits : 11 + p.length ≤ 65535 := by
    have := s.rxsz.isLt
    omega
  have hvalid : parseFrame s.cfg.minAppLen (s.rxBytes 0 s.rxsz.toNat) = .valid ack err ⟨21, p.length⟩ := by
    rw [hsize, hframe, parseFrame_inFrame hmin pw err ack hfits]
  have hparse := (parseStepGivesTheStatus i (setPhase .parse s) hreq rfl hinstr (hsize.trans_le hcap)).2 _ _ _ hvalid
  rw [execTimes_of_next hwait, execTimes_of_next hparse]
  rfl

theorem exchangeRequest_of_isPlain {i : Instr} (h : isPlain i = true) (c : Config) :
    (exchangeRequest c i).isSome = true := by
  cases i <;> first | rfl | cases h

theorem finishOf_of_isPlain {i : Instr} (h : isPlain i = true) : finishOf i = finishPlain := by
  cases i <;> first | rfl | cases h

/-- Settles O26: `Wait`, `Parse` and the return with no out-value. -/
theorem plainReplyReturnsTheStatus : Obligations.PlainReplyReturnsTheStatus := by
  intro i s pw err ack p hplain hphase hinstr hrdy hmin hcap hsize hframe
  have hreq := exchangeRequest_of_isPlain hplain s.cfg
  have hdone : exec i (repliedState err p s) = .next (returnToCaller .nothing (repliedState err p s)) := by
    rw [exec_request_done (s := repliedState err p s) hreq rfl hinstr, finishOf_of_isPlain hplain, finishPlain]
  rw [execTimes_to_done hreq hphase hinstr hrdy hmin hcap hsize hframe 1, execTimes_of_next hdone]
  rfl

/-- Settles O27: the same with the span as the out-value. -/
theorem sendAndAwaitReturnsTheSpan : Obligations.SendAndAwaitReturnsTheSpan := by
  intro cmd ms q s pw err ack p hphase hinstr hrdy hmin hcap hsize hframe
  have hdone : exec (.sendAndAwait cmd ms q) (repliedState err p s) =
      .next (returnToCaller (.payload (some ⟨21, p.length⟩)) (repliedState err p s)) :=
    exec_request_done rfl rfl hinstr
  rw [execTimes_to_done rfl hphase hinstr hrdy hmin hcap hsize hframe 1, execTimes_of_next hdone]
  rfl

end Sys2Proof.Machine

/-! The synchronous enrollment (44_enroll.md). -/

namespace Sys2Proof.Machine

/-! ## The steps in progress (R242) -/

section
variable {i : Instr} {s : State} {f : Half} {n : Byte} {cb : Callback} (henroll : enrollOperands i = some (f, n, cb))
  (hi : s.fg.instr = some i)
include henroll hi

theorem exec_enroll_check (hp : s.fg.phase = .check) (hnone : s.op = .none) :
    exec i s = .next (setPhase .send s) := by
  rw [exec_enrollment_step henroll (by rw [hp]; decide) hi, enrollStep, hp]
  exact congrArg _ (checkStep_of_none _ hnone)

theorem exec_enroll_send (hp : s.fg.phase = .send) : exec i s = enrollSendStep s := by
  rw [exec_enrollment_step henroll (by rw [hp]; decide) hi, enrollStep, hp]

theorem exec_enroll_arm (hp : s.fg.phase = .arm) : exec i s = .next (enrollArmStep s) := by
  rw [exec_enrollment_step henroll (by rw [hp]; decide) hi, enrollStep, hp]

theorem exec_enroll_parse (hp : s.fg.phase = .parse) : exec i s = enrollParseStep cb s := by
  rw [exec_enrollment_step henroll (by rw [hp]; decide) hi, enrollStep, hp]

theorem exec_enroll_done (hp : s.fg.phase = .done) : exec i s = .next (returnToCaller (.enrolled s.fg.enroll) s) := by
  rw [exec_enrollment_step henroll (by rw [hp]; decide) hi, enrollStep, hp]

end

/-- Step `Parse` of the enrollment, by the verdict. -/
theorem enrollParseStep_invalid {cb : Callback} {s : State} (hsize : s.rxsz.toNat ≤ s.cfg.rxCap)
    (hframe : parseFrame s.cfg.minAppLen (s.rxBytes 0 s.rxsz.toNat) = .invalid) :
    enrollParseStep cb s = .next (raise .invalidResponse 0 s) := by
  rw [enrollParseStep, withParsed_of_le _ hsize, hframe]

theorem enrollParseStep_error {cb : Callback} {s : State} {ack : Half} {err : Word} {sp : Span}
    (hsize : s.rxsz.toNat ≤ s.cfg.rxCap)
    (hframe : parseFrame s.cfg.minAppLen (s.rxBytes 0 s.rxsz.toNat) = .valid ack err sp) (herr : err ≠ 0) :
    enrollParseStep cb s = .next (raise .moduleError err
      { s with fg := { s.fg with enroll := { s.fg.enroll with isComplete := true, error := err } } }) := by
  rw [enrollParseStep, withParsed_of_le _ hsize, hframe]
  exact if_pos herr

theorem enrollParseStep_step {cb : Callback} {s : State} {ack : Half} {sp : Span} (hsize : s.rxsz.toNat ≤ s.cfg.rxCap)
    (hframe : parseFrame s.cfg.minAppLen (s.rxBytes 0 s.rxsz.toNat) = .valid ack 0 sp) :
    enrollParseStep cb s = withPayload 4 sp s (fun p => .next (enrollDecoded cb (decodeEnroll p) s)) := by
  rw [enrollParseStep, withParsed_of_le _ hsize, hframe]
  exact if_neg (not_not.mpr rfl)

/-! ## From the call to the first `Arm` (R230 to R233) -/

theorem exec_enroll_call {i : Instr} {s : State} {f : Half} {n : Byte} {cb : Callback}
    (henroll : enrollOperands i = some (f, n, cb)) (hidle : s.fg.phase = .idle) :
    exec i s = .next (beginCall i codeAutoEnroll (enrollPayload f n) s) := by
  rw [exec_enrollment henroll, enrollment, operation_of_idle _ _ _ hidle]

/-- The state of an enrollment at `Send`. -/
def enrollSending (i : Instr) (f : Half) (n : Byte) (s : State) : State :=
  setPhase .send (beginCall i codeAutoEnroll (enrollPayload f n) s)

/-- Settles O35: the call, `Check` and `Send`, with no arm among them. -/
theorem enrollSendsBeforeItArms : Obligations.EnrollSendsBeforeItArms := by
  intro i s f n cb r henroll hidle hnone hanswers hcap
  have hcheck : exec i (beginCall i codeAutoEnroll (enrollPayload f n) s) = .next (enrollSending i f n s) :=
    exec_enroll_check henroll rfl rfl hnone
  obtain ⟨m, hsend, hframe⟩ := sendRequest_given (good := setPhase .arm) (bad := raise .transmitError 0)
    (s := enrollSending i f n s) (a := true) (fitsTx_of_bounds hcap (show 7 + 4 ≤ 65535 by decide)) hanswers
  obtain ⟨hbytes, hrest⟩ := hframe
    (setPhase .arm { enrollSending i f n s with tx := m, answers := r, txBusy := true, txLen := 22 }) rfl
  refine ⟨_, ?_, hbytes, hrest, rfl, rfl, rfl, rfl⟩
  rw [execTimes_of_next (exec_enroll_call henroll hidle), execTimes_of_next hcheck,
    execTimes_of_next ((exec_enroll_send henroll rfl rfl).trans hsend)]
  rfl

/-- Settles O36: the answer decides whether a window opens. -/
theorem enrollArmRestartsTheWindow : Obligations.EnrollArmRestartsTheWindow := by
  intro i s r henroll hphase hinstr
  obtain ⟨⟨f, n, cb⟩, hoperands⟩ := Option.isSome_iff_exists.mp henroll
  refine ⟨fun hanswers => ?_, fun hanswers => ?_⟩
  · have harm := startReceive_true (s := clearReady s) hanswers
    rw [exec_enroll_arm hoperands hinstr hphase, enrollArmStep, harm]
    rfl
  · have harm := startReceive_false (s := clearReady s) hanswers
    rw [exec_enroll_arm hoperands hinstr hphase, enrollArmStep, harm]
    rfl

/-! ## The replies (R234 to R241) -/

theorem enrollDecoded_last {cb : Callback} {st : EnrollStatus} {s : State} (h : st.isComplete = true) :
    enrollDecoded cb st s = raise .ok 0 (invokeOperand cb st { s with fg := { s.fg with enroll := st } }) :=
  if_pos h

theorem enrollDecoded_more {cb : Callback} {st : EnrollStatus} {s : State} (h : st.isComplete = false) :
    enrollDecoded cb st s = setPhase .arm (invokeOperand cb st { s with fg := { s.fg with enroll := st } }) :=
  if_neg (by rw [h]; decide)

/-- Settles O37: the status is decoded from `RX`, the operand is invoked with it, and 0xFF completes. -/
theorem enrollStepIsDecodedAndReported : Obligations.EnrollStepIsDecodedAndReported := by
  intro i s f n cb ack sp henroll hphase hinstr hsize hframe hlen hcap st
  rw [exec_enroll_parse henroll hinstr hphase, enrollParseStep_step hsize hframe, withPayload_of_le _ hlen hcap,
    decodeEnroll_rx]
  by_cases hlast : s.rxByte sp.off = 0xFF
  · rw [if_pos hlast, enrollDecoded_last (decide_eq_true hlast)]
    cases cb <;> rfl
  · rw [if_neg hlast, enrollDecoded_more (decide_eq_false hlast)]
    cases cb <;> rfl

/-- Settles O38: the two failing verdicts of `Parse`, and the return of the status as it stands. -/
theorem enrollEndsWithItsStatus : Obligations.EnrollEndsWithItsStatus := by
  intro i s henroll hinstr
  obtain ⟨⟨f, n, cb⟩, hoperands⟩ := Option.isSome_iff_exists.mp henroll
  refine ⟨fun hphase hsize hframe => ?_, fun hphase hsize ack err sp hframe herr => ?_,
    exec_enroll_done hoperands hinstr⟩
  · exact (exec_enroll_parse hoperands hinstr hphase).trans (enrollParseStep_invalid hsize hframe)
  · exact (exec_enroll_parse hoperands hinstr hphase).trans (enrollParseStep_error hsize hframe herr)

end Sys2Proof.Machine

/-! The commands: the decoders of the replies and the returns of the wrappers (43_commands.md). -/

namespace Sys2Proof.Machine

/-! ## Replies with an out-value (R192, R193, R196, R199) -/

/-- A decoder's reply that is long enough is decoded from the first bytes of its payload in `RX`. -/
theorem finishDecode_ok {need : Nat} {dec : List Byte → State → OutValue × State} {free : State → OutValue × State}
    {s : State} {sp : Span} (hok : s.fg.result.status = .ok) (hspan : s.fg.span = some sp) (hlen : need ≤ sp.len)
    (hcap : sp.off + need ≤ s.cfg.rxCap) :
    finishDecode need dec free s =
      .next (returnToCaller (dec (s.rxBytes sp.off need) s).1 (dec (s.rxBytes sp.off need) s).2) := by
  rw [finishDecode, if_pos hok, hspan]
  exact withPayload_of_le _ hlen hcap

theorem finishDecode_short {need : Nat} {dec : List Byte → State → OutValue × State} {free : State → OutValue × State}
    {s : State} {sp : Span} (hok : s.fg.result.status = .ok) (hspan : s.fg.span = some sp) (hlen : sp.len < need) :
    finishDecode need dec free s = .refused .payloadTooShort := by
  rw [finishDecode, if_pos hok, hspan]
  exact withPayload_short _ hlen

theorem finishDecode_failed {need : Nat} {dec : List Byte → State → OutValue × State}
    {free : State → OutValue × State} {s : State} (hfail : s.fg.result.status ≠ .ok) :
    finishDecode need dec free s = .next (returnToCaller (free s).1 (free s).2) := if_neg hfail

/-- Settles O28: the two decoders read bytes of `RX` at the start of the span. -/
theorem fingerStatusAndCountAreDecoded : Obligations.FingerStatusAndCountAreDecoded := by
  intro i s sp hphase hinstr hok hspan
  refine ⟨fun hi hlen hcap => ?_, fun hi hlen hcap => ?_⟩
  · have hbyte : byteAt (s.rxBytes sp.off 1) 0 = s.rxByte sp.off := byteAt_rxBytes s sp.off (by decide)
    have hexec : exec i s = .next (returnToCaller (.pressed (decodePressed (s.rxBytes sp.off 1))) s) := by
      rcases hi with rfl | rfl <;>
        exact (exec_request_done rfl hphase hinstr).trans (finishDecode_ok hok hspan hlen hcap)
    exact ⟨_, by rw [decodePressed, hbyte, decide_eq_true_eq], hexec⟩
  · have hbyte : ∀ j, j < 2 → byteAt (s.rxBytes sp.off 2) j = s.rxByte (sp.off + j) :=
      fun j hj => byteAt_rxBytes s sp.off hj
    have hexec : exec i s = .next (returnToCaller (.count (decodeCount (s.rxBytes sp.off 2))) s) := by
      rcases hi with rfl | rfl <;>
        exact (exec_request_done rfl hphase hinstr).trans (finishDecode_ok hok hspan hlen hcap)
    rw [hexec, decodeCount, hbyte 0 (by decide), hbyte 1 (by decide)]
    rfl

/-- Decoding a match from `RX`: the flag by its three cases, the rest byte by byte. -/
theorem decodeMatch_rx (s : State) (off o n : Nat) (hn : o + 5 ≤ n) :
    decodeMatch o (s.rxBytes off n) s =
      (⟨(flagOf (s.rxByte (off + o)) s).1, be16 (s.rxByte (off + (o + 3))) (s.rxByte (off + (o + 4))),
        be16 (s.rxByte (off + (o + 1))) (s.rxByte (off + (o + 2)))⟩, (flagOf (s.rxByte (off + o)) s).2) := by
  have hbyte : ∀ j, j < n → byteAt (s.rxBytes off n) j = s.rxByte (off + j) := fun j hj => byteAt_rxBytes s off hj
  rw [decodeMatch, hbyte o (by omega), hbyte (o + 1) (by omega), hbyte (o + 2) (by omega), hbyte (o + 3) (by omega),
    hbyte (o + 4) (by omega)]

theorem finishOf_match {i : Instr} (hi : i = .matchFinger ∨ i = .cmdMatchSync) :
    finishOf i =
      finishDecode 6 (fun p s => (.matched (decodeMatch 1 p s).1, (decodeMatch 1 p s).2)) freeMatched := by
  rcases hi with rfl | rfl <;> simp only [finishOf]

/-- Settles O29: the fields stand from offset 1; the flag byte decides, or a free value does. -/
theorem matchIsDecodedFromOffsetOne : Obligations.MatchIsDecodedFromOffsetOne := by
  intro i s sp hi hphase hinstr hok hspan hlen hcap
  have hexec : exec i s = .next (returnToCaller (.matched (decodeMatch 1 (s.rxBytes sp.off 6) s).1)
      (decodeMatch 1 (s.rxBytes sp.off 6) s).2) := by
    have hreq : (exchangeRequest s.cfg i).isSome = true := by rcases hi with rfl | rfl <;> rfl
    rw [exec_request_done hreq hphase hinstr, finishOf_match hi, finishDecode_ok hok hspan hlen hcap]
  rw [decodeMatch_rx s sp.off 1 6 (by decide)] at hexec
  rcases flagOf_spec (s.rxByte (sp.off + 1)) s with ⟨hflag, hdraw⟩ | ⟨hflag, hdraw⟩ | ⟨hne0, hne1, hdraw⟩
  · rw [hdraw] at hexec
    exact ⟨false, by rw [hexec, if_pos (.inl hflag)]; rfl, fun _ => rfl, (nomatch hflag.symm.trans ·),
      fun h => absurd hflag h⟩
  · rw [hdraw] at hexec
    exact ⟨true, by rw [hexec, if_pos (.inr hflag)]; rfl, (nomatch hflag.symm.trans ·), fun _ => rfl,
      fun _ h => absurd hflag h⟩
  · rw [hdraw] at hexec
    exact ⟨_, by rw [hexec, if_neg (by tauto)]; rfl, fun h => absurd h hne0, fun h => absurd h hne1, fun _ _ => rfl⟩

/-- The masks of R199 are the three low bits. -/
theorem decodePolicy_bits (p : List Byte) :
    decodePolicy p = ⟨(byteAt p 3).getLsbD 0, (byteAt p 3).getLsbD 1, (byteAt p 3).getLsbD 2⟩ := by
  have hmask : ∀ b : Byte, (decide (b &&& 0x01 ≠ 0) = b.getLsbD 0 ∧ decide (b &&& 0x02 ≠ 0) = b.getLsbD 1) ∧
      decide (b &&& 0x04 ≠ 0) = b.getLsbD 2 := by decide
  obtain ⟨⟨h0, h1⟩, h2⟩ := hmask (byteAt p 3)
  rw [decodePolicy, h0, h1, h2]

/-- Settles O30: the policy word's byte stands at offset 3. -/
theorem policyIsDecoded : Obligations.PolicyIsDecoded := by
  intro i s sp hi hphase hinstr hok hspan hlen hcap
  have hexec : exec i s = .next (returnToCaller (.policy (decodePolicy (s.rxBytes sp.off 4))) s) := by
    rcases hi with rfl | rfl <;>
      exact (exec_request_done rfl hphase hinstr).trans (finishDecode_ok hok hspan hlen hcap)
  rw [hexec, decodePolicy_bits, byteAt_rxBytes s sp.off (by decide)]
  rfl

/-! ## Short replies (R190 d, R234, R256) -/

/-- Every wrapper with a decoder ends in one decode, with an out-value of free values for a failure. -/
theorem finishOf_decoder {i : Instr} {need : Nat} (h : decoderNeed i = some need) (c : Config) :
    (exchangeRequest c i).isSome = true ∧ ∃ dec free, finishOf i = finishDecode need dec free ∧
      ∀ s : State, ∃ d, (free s).2 = { s with draws := d } := by
  cases i <;> cases h <;> exact ⟨rfl, _, _, by simp only [finishOf]; rfl, fun _ => ⟨_, rfl⟩⟩

/-- Settles O31: all three decoders go through `withPayload`, which asks for the bytes it reads. -/
theorem shortReplyIsRefused : Obligations.ShortReplyIsRefused := by
  refine ⟨fun i s sp need hneed hphase hinstr hok hspan hlen => ?_,
    fun i s ack sp henroll hphase hinstr hsize hframe hlen => ?_, fun s k ack sp hop hpend hsize hframe hlen => ?_⟩
  · obtain ⟨hreq, dec, free, hfinish, -⟩ := finishOf_decoder hneed s.cfg
    rw [exec_request_done hreq hphase hinstr, hfinish, finishDecode_short hok hspan hlen]
  · obtain ⟨⟨f, n, cb⟩, hoperands⟩ := Option.isSome_iff_exists.mp henroll
    rw [exec_enroll_parse hoperands hinstr hphase, enrollParseStep_step hsize hframe, withPayload_short _ hlen]
  · rw [exec_notification_valid (by rw [hop]; decide) hpend hsize hframe, if_neg (by rw [hop]; decide),
      enrollContinuation, if_neg (not_not.mpr rfl), withPayload_short _ hlen]

/-! ## The returns (R190, R197) -/

/-- What a request returns when its status is not `OK`: some out-value, after some draws. -/
theorem finishOf_failed {i : Instr} {s : State} (hfail : s.fg.result.status ≠ .ok) :
    ∃ o d, finishOf i s = .next (returnToCaller o { s with draws := d }) := by
  rcases hneed : decoderNeed i with _ | need
  case some =>
    obtain ⟨-, dec, free, hfinish, hfree⟩ := finishOf_decoder hneed s.cfg
    obtain ⟨d, hd⟩ := hfree s
    exact ⟨_, d, by rw [hfinish, finishDecode_failed hfail, hd]⟩
  have hpassword : ∀ v, finishPassword v s = .next (returnToCaller .nothing s) := fun v => by
    rw [finishPassword, if_neg hfail]
  cases i
  case setPassword | cmdSetPasswordFlash | cmdSetPasswordTemp => exact ⟨.nothing, s.draws, hpassword _⟩
  case isFingerPressed | cmdFingerStatus | matchFinger | cmdMatchSync | getFingerprintCount | cmdCount
    | getSystemPolicy | cmdGetPolicy => cases hneed
  all_goals exact ⟨_, s.draws, rfl⟩

/-- Settles O32: no end of a request looks at more than whether the status is `OK`. -/
theorem failedWrapperReturnsItsStatus : Obligations.FailedWrapperReturnsItsStatus := by
  intro i s hreq hphase hinstr hfail
  obtain ⟨o, d, hfinish⟩ := finishOf_failed (i := i) hfail
  exact ⟨d, o, (exec_request_done hreq hphase hinstr).trans hfinish⟩

/-- Settles O33: SET_PASSWORD and its two frames end alike. -/
theorem passwordChangesOnlyOnOk : Obligations.PasswordChangesOnlyOnOk := by
  intro i v s hnew hphase hinstr
  have hexec : exec i s = finishPassword v s := by
    cases i <;> cases hnew
    case setPassword fl => cases fl <;> exact exec_request_done rfl hphase hinstr
    all_goals exact exec_request_done rfl hphase hinstr
  rw [hexec, finishPassword]
  split <;> rfl

end Sys2Proof.Machine

/-! The asynchronous operations: the two STARTs, and the continuations with their callbacks (45_async.md). -/

namespace Sys2Proof.Machine

/-! ## The START in progress (R251, R252) -/

theorem startCheckStep_of_none (x : Session) {s : State} (h : s.op = .none) :
    startCheckStep x s = setPhase .arm (openSession x s) :=
  if_neg (not_not.mpr h)

section
variable {i : Instr} {s : State} {x : Session} {cmd : Half} {p : List Byte} (hstart : startRequest i = some (x, cmd, p))
include hstart

theorem exec_start_call (hidle : s.fg.phase = .idle) : exec i s = .next (beginCall i cmd p s) := by
  rw [exec_start hstart, operation_of_idle _ _ _ hidle]

/-- Every START's request has at most four payload bytes. -/
theorem startRequest_length : p.length ≤ 4 := by
  cases i <;> cases hstart <;> simp

variable (hi : s.fg.instr = some i)
include hi

theorem exec_start_check (hp : s.fg.phase = .check) (hnone : s.op = .none) :
    exec i s = .next (setPhase .arm (openSession x s)) := by
  rw [exec_start_step hstart (by rw [hp]; decide) hi, startStep, hp]
  exact congrArg _ (startCheckStep_of_none x hnone)

theorem exec_start_arm (hp : s.fg.phase = .arm) : exec i s = .next (startArmStep s) := by
  rw [exec_start_step hstart (by rw [hp]; decide) hi, startStep, hp]

theorem exec_start_send (hp : s.fg.phase = .send) : exec i s = startSendStep s := by
  rw [exec_start_step hstart (by rw [hp]; decide) hi, startStep, hp]

theorem exec_start_done (hp : s.fg.phase = .done) : exec i s = .next (returnToCaller .nothing s) := by
  rw [exec_start_step hstart (by rw [hp]; decide) hi, startStep, hp]

end

theorem startArmStep_true {s : State} {r : List Bool} (h : s.answers = true :: r) :
    startArmStep s = setPhase .send { s with answers := r, rxArmed := true } := by
  rw [startArmStep, startReceive_true h]
  rfl

theorem startArmStep_false {s : State} {r : List Bool} (h : s.answers = false :: r) :
    startArmStep s = raise .receiveError 0 (endSession { s with answers := r }) := by
  rw [startArmStep, startReceive_false h]
  rfl

/-- The state of a START at `Send`, its session open and the receiver armed. -/
def startedState (i : Instr) (x : Session) (cmd : Half) (p : List Byte) (r : List Bool) (s : State) : State :=
  setPhase .send { openSession x (beginCall i cmd p s) with answers := r, rxArmed := true }

/-- Settles O39: the call, the check-and-set, the arm, the send and the return one after another. -/
theorem startOpensTheSession : Obligations.StartOpensTheSession := by
  intro i s x cmd p r hstart hidle hnone hanswers hcap
  have hlen := startRequest_length hstart
  have hcheck := exec_start_check (s := beginCall i cmd p s) hstart rfl rfl hnone
  have harm : exec i (setPhase .arm (openSession x (beginCall i cmd p s))) =
      .next (startedState i x cmd p (true :: r) s) :=
    (exec_start_arm hstart rfl rfl).trans (congrArg _ (startArmStep_true hanswers))
  obtain ⟨m, hrequest, hframe⟩ := sendRequest_given (good := raise .asyncInProgress 0)
    (bad := fun s => raise .transmitError 0 (endSession s)) (s := startedState i x cmd p (true :: r) s) (a := true)
    (fitsTx_of_bounds (p := p) (show 18 + p.length ≤ s.cfg.txCap by omega) (by omega)) rfl
  have hsend := (exec_start_send hstart rfl rfl).trans hrequest
  obtain ⟨hbytes, hrest⟩ := hframe (returnToCaller .nothing (raise .asyncInProgress 0
    { startedState i x cmd p (true :: r) s with tx := m, answers := r, txBusy := true, txLen := 18 + p.length })) rfl
  refine ⟨_, ?_, hbytes, hrest, rfl, rfl, rfl⟩
  rw [execTimes_of_next (exec_start_call hstart hidle), execTimes_of_next hcheck, execTimes_of_next harm,
    execTimes_of_next hsend, execTimes_of_next (exec_start_done hstart rfl rfl)]
  rfl

/-- Settles O40: a false answer ends the session on the way out, at the arm and at the send. -/
theorem startRollsBack : Obligations.StartRollsBack := by
  intro i s r hstart hinstr hanswers
  obtain ⟨⟨x, cmd, p⟩, hrequest⟩ := Option.isSome_iff_exists.mp hstart
  refine ⟨fun hphase => ?_, fun hphase hcap hlen => ?_⟩
  · rw [exec_start_arm hrequest hinstr hphase, startArmStep_false hanswers]
    rfl
  · obtain ⟨m, hsend, hframe⟩ := sendRequest_given (good := raise .asyncInProgress 0)
      (bad := fun s => raise .transmitError 0 (endSession s)) (fitsTx_of_bounds hcap hlen) hanswers
    obtain ⟨hbytes, hrest⟩ := hframe (raise .transmitError 0 (endSession { s with tx := m, answers := r })) rfl
    exact ⟨_, (exec_start_send hrequest hinstr hphase).trans hsend, hbytes, hrest, rfl⟩

/-! ## The match continuation (R255) -/

/-- What the continuation reports: decoded from offset 0 of a long enough payload without error, and free otherwise. -/
theorem matchContinuation_decoded {err : Word} {sp : Span} {s : State} (herr : err = 0) (hlen : 5 ≤ sp.len)
    (hcap : sp.off + 5 ≤ s.cfg.rxCap) :
    matchContinuation err sp s =
      matchReport ⟨(flagOf (s.rxByte sp.off) s).1, be16 (s.rxByte (sp.off + 3)) (s.rxByte (sp.off + 4)),
        be16 (s.rxByte (sp.off + 1)) (s.rxByte (sp.off + 2))⟩ (flagOf (s.rxByte sp.off) s).2 := by
  have hdecode := decodeMatch_rx s sp.off 0 5 (by decide)
  rw [matchContinuation, if_neg (by simp [herr, hlen]), withPayload_of_le _ hlen hcap, hdecode]
  rfl

theorem matchContinuation_free {err : Word} {sp : Span} {s : State} (h : err ≠ 0 ∨ sp.len < 5) :
    matchContinuation err sp s =
      matchReport ⟨Config.freeBool s.draws, Config.freeHalf (s.draws + 1), Config.freeHalf (s.draws + 2)⟩
        { s with draws := s.draws + 3 } := by
  rw [matchContinuation, if_pos h, drawMatch_spec]

/-- The success flag draws at most once, and not for 0 and 1. -/
theorem flagOf_frame (x : Byte) (s : State) : ∃ b d, flagOf x s = (b, { s with draws := d }) ∧
    (x = 0 → b = false ∧ d = s.draws) ∧ (x = 1 → b = true ∧ d = s.draws) := by
  rcases flagOf_spec x s with ⟨rfl, h⟩ | ⟨rfl, h⟩ | ⟨hne0, hne1, h⟩
  · exact ⟨_, _, h, fun _ => ⟨rfl, rfl⟩, nofun⟩
  · exact ⟨_, _, h, nofun, fun _ => ⟨rfl, rfl⟩⟩
  · exact ⟨_, _, h, (absurd · hne0), (absurd · hne1)⟩

/-- Settles O43: one report, decoded or free, and the end of the session after its callback. -/
theorem matchReplyInvokesTheCallbackOnce : Obligations.MatchReplyInvokesTheCallbackOnce := by
  intro s k ack err sp h q hop hpend hsize hcb hbodies hframe hcap
  have hexec := exec_notification_valid (by rw [hop]; decide) hpend hsize hframe
  rw [if_pos hop] at hexec
  by_cases hfree : err ≠ 0 ∨ sp.len < 5
  · have hreport := hexec.trans (matchContinuation_free hfree)
    exact ⟨_, s.draws + 3, hreport.trans (matchReport_returns (s := { recordReceive k s with draws := s.draws + 3 })
      hcb hbodies), fun herr hlen => absurd hfree (by simp [herr, hlen]), fun _ => ⟨rfl, rfl⟩⟩
  · obtain ⟨herr, hlen⟩ : err = 0 ∧ 5 ≤ sp.len := by simpa using hfree
    have hreport := hexec.trans (matchContinuation_decoded (s := recordReceive k s) herr hlen hcap)
    obtain ⟨b, d, hflag, hzero, hone⟩ := flagOf_frame (s.rxByte sp.off) (recordReceive k s)
    rw [show (recordReceive k s).rxByte sp.off = s.rxByte sp.off from rfl, hflag] at hreport
    exact ⟨_, d, hreport.trans (matchReport_returns (s := { recordReceive k s with draws := d }) hcb hbodies),
      fun _ _ => ⟨rfl, rfl, hzero, hone⟩, fun h => absurd h hfree⟩

/-! ## The enrollment continuation (R256, R257) -/

section
variable {st : EnrollStatus} {s : State} {h g : Handle} {q : List CallbackBody}

/-- A step that is not the last, with its progress callback: the report and the re-arm. -/
theorem enrollReport_rearms {a : Bool} {r : List Bool} (hst : st.isComplete = false) (hcb : s.cbProgress = some h)
    (hbodies : s.bodies = ⟨[], true⟩ :: q) (hanswers : s.answers = a :: r) :
    enrollReport st s = .next { s with
      op := if a then s.op else .none, rxArmed := a || s.rxArmed, answers := r, bodies := q,
      invoked := s.invoked ++ [⟨.onProgress, h, .enroll st⟩] } := by
  rw [enrollReport_returns hcb hbodies, enrollAdvance_step hst]
  exact congrArg _ (rearm_given (s := { s with bodies := q, invoked := _ }) hanswers)

/-- The end of an enrollment with both callbacks: two reports with one status. -/
theorem enrollReport_completes (hst : st.isComplete = true) (hprogress : s.cbProgress = some h)
    (hcomplete : s.cbComplete = some g) (hbodies : s.bodies = ⟨[], true⟩ :: ⟨[], true⟩ :: q) :
    enrollReport st s = .next { s with
      op := .none, bodies := q,
      invoked := s.invoked ++ [⟨.onProgress, h, .enroll st⟩, ⟨.onComplete, g, .enroll st⟩] } := by
  have hend := enrollAdvance_returns (q := q)
    (s := { s with bodies := ⟨[], true⟩ :: q, invoked := s.invoked ++ [⟨.onProgress, h, .enroll st⟩] }) hst
    hcomplete rfl
  rw [enrollReport_returns hprogress hbodies, hend, List.append_assoc]
  rfl

end

/-- Settles O44: the report of a step that is not the last, and then the re-arm. -/
theorem enrollReplyReArmsOrEnds : Obligations.EnrollReplyReArmsOrEnds := by
  intro s k ack sp h q r a hop hpend hsize hcb hbodies hframe hlen hcap hmore hanswers
  have hexec := exec_notification_enroll hop hpend hsize hframe fun _ => ⟨hlen, hcap⟩
  rw [if_pos rfl, decide_eq_false hmore] at hexec
  rw [hexec, enrollReport_rearms (s := recordReceive k s) rfl hcb hbodies hanswers, ← hop]
  rfl

/-- The status of the end of an enrollment (R256): that of its last step, or of a module error. -/
theorem exec_notification_last {s : State} {k ack : Half} {err : Word} {sp : Span} (hop : s.op = .asyncEnroll)
    (hpend : s.pend.rx = some k) (hsize : k.toNat ≤ s.cfg.rxCap)
    (hframe : parseFrame s.cfg.minAppLen (s.rxBytes 0 k.toNat) = .valid ack err sp)
    (hlast : err = 0 → 4 ≤ sp.len ∧ sp.off + 4 ≤ s.cfg.rxCap ∧ s.rxByte sp.off = 0xFF) :
    ∃ st : EnrollStatus, st.isComplete = true ∧ st = (if err = 0 then ⟨true, 0xFF, s.rxByte (sp.off + 3),
      be16 (s.rxByte (sp.off + 1)) (s.rxByte (sp.off + 2)), 0⟩ else ⟨true, 0, 0, 0, err⟩) ∧
      exec (.onUartReceive k) s = enrollReport st (recordReceive k s) := by
  have hexec := exec_notification_enroll hop hpend hsize hframe fun h => ⟨(hlast h).1, (hlast h).2.1⟩
  by_cases herr : err = 0
  · obtain ⟨-, -, hbyte⟩ := hlast herr
    rw [if_pos herr, hbyte] at hexec
    exact ⟨_, rfl, by rw [if_pos herr]; rfl, hexec⟩
  · rw [if_neg herr] at hexec
    exact ⟨_, rfl, by rw [if_neg herr], hexec⟩

/-- Settles O45: the two reports one after another, with the same status. -/
theorem enrollReplyCompletes : Obligations.EnrollReplyCompletes := by
  intro s k ack err sp h g q hop hpend hsize hprogress hcomplete hbodies hframe hlast
  obtain ⟨st, hst, rfl, hexec⟩ := exec_notification_last hop hpend hsize hframe hlast
  exact hexec.trans (enrollReport_completes (s := recordReceive k s) hst hprogress hcomplete hbodies)

/-! ## Callbacks that are not set (R260 a) -/

/-- Settles O46: an unset register is passed over, and what follows its call is the same. -/
theorem unsetCallbackIsSkipped : Obligations.UnsetCallbackIsSkipped := by
  intro s k ack err sp hpend hsize hframe
  refine ⟨fun hop hcb hcap => ?_, fun hop hcb herr hlen hcap hmore a r hanswers => ?_, fun hop hlast => ?_⟩
  · obtain ⟨m, d, hexec⟩ := exec_notification_match hop hpend hsize hframe hcap
    exact ⟨d, hexec.trans (matchReport_unset (s := { recordReceive k s with draws := d }) hcb)⟩
  · have hexec := exec_notification_enroll hop hpend hsize hframe fun _ => ⟨hlen, hcap⟩
    rw [if_pos herr, decide_eq_false hmore] at hexec
    rw [hexec, enrollReport_unset (s := recordReceive k s) hcb, enrollAdvance_step rfl,
      rearm_given (s := recordReceive k s) hanswers, ← hop]
    rfl
  · obtain ⟨st, hst, rfl, hexec⟩ := exec_notification_last hop hpend hsize hframe hlast
    refine ⟨fun hprogress hcomplete => ?_, fun g q hprogress hcomplete hbodies => ?_,
      fun h q hprogress hcomplete hbodies => ?_⟩
    · rw [hexec, enrollReport_unset (s := recordReceive k s) hprogress,
        enrollAdvance_unset (s := recordReceive k s) hst hcomplete]
      rfl
    · rw [hexec, enrollReport_unset (s := recordReceive k s) hprogress,
        enrollAdvance_returns (s := recordReceive k s) hst hcomplete hbodies]
      rfl
    · rw [hexec, enrollReport_returns (s := recordReceive k s) hprogress hbodies]
      exact enrollAdvance_unset (s := { recordReceive k s with bodies := q, invoked := _ }) hst hcomplete

/-! ## Callbacks that hang (R260 c, R296) -/

section
variable {b : CallbackBody} (hhangs : b = ⟨[], false⟩ ∨ ∃ is d, 0 < d ∧ b.calls = .delayMs d :: is) {s : State}
  {h : Handle} {q : List CallbackBody} (hbodies : s.bodies = b :: q)
include hhangs hbodies

theorem invokeRegistered_stops (role : CallbackRole) (arg : CallbackArg) (k : State → Res) :
    invokeRegistered role (some h) arg k s =
      .next { s with bodies := q, hung := true, invoked := s.invoked ++ [⟨role, h, arg⟩] } :=
  (invokeRegistered_body hbodies).trans (runBody_hangs hhangs _ _)

theorem matchReport_stops (m : MatchResult) (hcb : s.cbMatch = some h) : matchReport m s =
    .next { s with bodies := q, hung := true, invoked := s.invoked ++ [⟨.onMatch, h, .matched m⟩] } :=
  (matchReport_some hcb).trans (invokeRegistered_stops hhangs hbodies _ _ _)

theorem enrollReport_stops (st : EnrollStatus) (hcb : s.cbProgress = some h) : enrollReport st s =
    .next { s with bodies := q, hung := true, invoked := s.invoked ++ [⟨.onProgress, h, .enroll st⟩] } :=
  (enrollReport_some hcb).trans (invokeRegistered_stops hhangs hbodies _ _ _)

theorem enrollAdvance_stops {st : EnrollStatus} (hst : st.isComplete = true) (hcb : s.cbComplete = some h) :
    enrollAdvance st s =
      .next { s with bodies := q, hung := true, invoked := s.invoked ++ [⟨.onComplete, h, .enroll st⟩] } :=
  (enrollAdvance_some hst hcb).trans (invokeRegistered_stops hhangs hbodies _ _ _)

end

/-- Settles O47: a callback that hangs leaves its invocation, and nothing after its call is reached. -/
theorem hangingCallbackStopsTheBlock : Obligations.HangingCallbackStopsTheBlock := by
  intro s k ack err sp h b q hhangs hpend hsize hframe
  refine ⟨fun hop hcb hbodies hcap => ?_, fun hop hpayload => ?_⟩
  · obtain ⟨m, d, hexec⟩ := exec_notification_match hop hpend hsize hframe hcap
    exact ⟨m, d, hexec.trans (matchReport_stops (s := { recordReceive k s with draws := d }) hhangs hbodies m hcb)⟩
  have hexec := exec_notification_enroll hop hpend hsize hframe hpayload
  intro st
  refine ⟨fun hcb hbodies => ?_, fun g hprogress hcomplete hbodies hst => ?_, fun hprogress hcomplete hbodies hst => ?_⟩
  · exact hexec.trans (enrollReport_stops (s := recordReceive k s) hhangs hbodies st hcb)
  · have hend := enrollAdvance_stops (q := q) (s := { recordReceive k s with
      bodies := b :: q, invoked := s.invoked ++ [⟨.onProgress, g, .enroll st⟩] }) hhangs rfl hst hcomplete
    rw [List.append_assoc] at hend
    exact hexec.trans ((enrollReport_returns (s := recordReceive k s) hprogress hbodies).trans hend)
  · exact hexec.trans ((enrollReport_unset (s := recordReceive k s) hprogress).trans
      (enrollAdvance_stops (s := recordReceive k s) hhangs hbodies hst hcomplete))

end Sys2Proof.Machine

/-! The machine: the invariant of every step and at reset (10_state.md, 20_memory.md section Addresses, 60_exceptions.md,
44_enroll.md section order). -/

namespace Sys2Proof.Machine

/-! ## The invariant under the shared updates -/

namespace State.Inv

/-- The fields the invariant says nothing about are written, and a session ends or stays. -/
theorem of_unread {s : State} (h : s.Inv) {x : Session} (hx : x = s.op ∨ x = .none) {pw : Word} {rdy : Bool}
    {a b c : Callback} {ra tb hung : Bool} {script : List Event} {r : List Bool} {q : List CallbackBody} {d e : Nat}
    {v : List Invocation} : State.Inv { s with
      op := x, pw := pw, rdy := rdy, cbMatch := a, cbProgress := b, cbComplete := c, rxArmed := ra, txBusy := tb,
      hung := hung, script := script, answers := r, bodies := q, draws := d, rxEpoch := e, invoked := v } :=
  { h with syncAlone := fun i hi hsync hphase => hx.elim (·.trans (h.syncAlone i hi hsync hphase)) id }

/-- A frame is built, with a transmit span within `TX`. -/
theorem of_frame {s : State} (h : s.Inv) {cmd : Half} {p : List Byte} (hfits : fitsTx s p = true) {m : Memory}
    (hm : m = (putFrame cmd p s).tx) {n : Nat} (hn : n ≤ s.cfg.txCap) :
    State.Inv { s with tx := m, txLen := n } := by
  have hcap := ((fitsTx_iff s p).mp hfits).1
  rw [putFrame_tx] at hm
  have hform : Memory.wf m = true := hm ▸ Memory.wf_writeBytes _ _ _ h.txForm
  have hinside : Memory.below s.cfg.txCap m = true :=
    hm ▸ Memory.below_writeBytes _ _ (by rw [outFrame_length]; omega) h.txInside
  exact { h with txForm := hform, txInside := hinside, txLen := hn }

/-- A frame is built and handed over. -/
theorem of_sent {s : State} (h : s.Inv) {cmd : Half} {p : List Byte} (hfits : fitsTx s p = true) {m : Memory}
    (hm : m = (putFrame cmd p s).tx) (r : List Bool) (d : Nat) : State.Inv { s with
      tx := m, answers := r, draws := d, txBusy := true, txLen := 18 + p.length } :=
  (h.of_frame hfits hm ((fitsTx_iff s p).mp hfits).1).of_unread (.inl rfl)

/-- A result is added to the returned list. -/
theorem of_result {s : State} (h : s.Inv) {r : Returned} (hr : ∀ c, r.result = some c → c.sound = true) :
    State.Inv { s with results := s.results ++ [r] } :=
  { h with results := List.forall_mem_append.mpr ⟨h.results, List.forall_mem_singleton.mpr hr⟩ }

theorem answerCaller {s : State} (h : s.Inv) (o : OutValue) : (answerCaller o s).Inv :=
  h.of_result nofun

/-- An abort leaves nothing written in `RX`. -/
theorem abortReceive {s : State} (h : s.Inv) : (abortReceive s).Inv :=
  { h with rxForm := rfl, rxInside := rfl }

theorem recordReceive {s : State} (h : s.Inv) {k : Half} (hk : k.toNat ≤ s.cfg.rxCap) : (recordReceive k s).Inv :=
  { h with rxsz := hk, pendRx := nofun }

/-! ### The sequencer -/

/-- The operation `i` moves to another of its steps. -/
theorem of_fg {s : State} (h : s.Inv) {f : Fg} {i : Instr} (hi : f.instr = some i) (hp : f.phase ≠ .idle)
    (ht0 : f.t0 < 2 ^ s.cfg.tickBits) (hresult : f.result.sound = true)
    (hsync : isSync i = true → f.phase.underway = true → s.op = .none)
    (hstart : isStart i = true → f.phase.awaits = false) : State.Inv { s with fg := f } :=
  { h with
    t0 := ht0
    result := hresult
    idle := by simp [hi, hp]
    syncAlone := fun j hj => by
      obtain rfl := Option.some.inj (hi.symm.trans hj)
      exact hsync
    startNoWait := fun j hj => by
      obtain rfl := Option.some.inj (hi.symm.trans hj)
      exact hstart }

/-- No session is active at a step of a synchronous operation after its `Check`. -/
theorem op_none {s : State} (h : s.Inv) {i : Instr} (hi : s.fg.instr = some i) {p : Phase} (hp : s.fg.phase = p)
    (hunder : p.underway = true) (hsync : isSync i = true) : s.op = .none :=
  h.syncAlone i hi hsync (hp ▸ hunder)

theorem setPhase {s : State} (h : s.Inv) {i : Instr} (hi : s.fg.instr = some i) {p : Phase} (hp : p ≠ .idle)
    (hsync : isSync i = true → s.op = .none) (hstart : isStart i = true → p.awaits = false) : (setPhase p s).Inv :=
  h.of_fg hi hp h.t0 h.result (fun hy _ => hsync hy) hstart

/-- A START opens its session and goes on to its arm. -/
theorem of_opened {s : State} (h : s.Inv) {i : Instr} (hi : s.fg.instr = some i) (hsync : isSync i = false)
    (x : Session) : (Machine.setPhase .arm (openSession x s)).Inv :=
  { h with
    idle := by simp [hi]
    syncAlone := fun j hj hy => by
      obtain rfl := Option.some.inj (hi.symm.trans hj)
      exact nomatch hy.symm.trans hsync
    startNoWait := fun _ _ _ => rfl }

theorem openWindow {s : State} (h : s.Inv) {i : Instr} (hi : s.fg.instr = some i)
    (hsync : isSync i = true → s.op = .none) (hstart : isStart i = false) (n : Nat) : (openWindow n s).Inv :=
  h.of_fg hi nofun h.tick h.result (fun hy _ => hsync hy) (fun hs => nomatch hs.symm.trans hstart)

theorem raise {s : State} (h : s.Inv) {i : Instr} (hi : s.fg.instr = some i) {st : Status} {e : Word}
    (hr : CommandResult.sound ⟨st, e⟩ = true) : (raise st e s).Inv :=
  h.of_fg hi nofun h.t0 hr nofun (fun _ => rfl)

/-- The operation is over. -/
theorem of_idle {s : State} (h : s.Inv) : State.Inv { s with fg := { s.fg with phase := .idle, instr := none } } :=
  { h with idle := ⟨fun _ => rfl, fun _ => rfl⟩, syncAlone := nofun, startNoWait := nofun }

theorem returnToCaller {s : State} (h : s.Inv) (o : OutValue) : (returnToCaller o s).Inv :=
  h.of_idle.of_result fun _ hc => Option.some.inj hc ▸ h.result

/-! ### The notification -/

/-- What a continuation touches. -/
theorem of_touched {A : Prop} {s u : State} (h : s.Inv) (hu : Touched A s u) : u.Inv := by
  obtain ⟨htxForm, htxInside⟩ := hu.tx ⟨h.txForm, h.txInside⟩
  have hrx : Memory.wf u.rx = true ∧ Memory.below s.cfg.rxCap u.rx = true := by
    rcases hu.rx with ⟨hsame, -⟩ | ⟨haborted, -⟩
    · exact hsame ▸ ⟨h.rxForm, h.rxInside⟩
    · exact haborted ▸ ⟨rfl, rfl⟩
  rw [hu.rest]
  exact { h with
    txForm := htxForm
    txInside := htxInside
    rxForm := hrx.1
    rxInside := hrx.2
    txLen := hu.txLen h.txLen
    results := fun r hr => (hu.results r hr).elim (h.results r) id
    syncAlone := fun i hi hsync hphase => hu.op.elim (·.trans (h.syncAlone i hi hsync hphase)) id }

end State.Inv

/-! ## The invariant under every step -/

/-- No START is a synchronous operation. -/
theorem isSync_of_isStart {i : Instr} (h : isStart i = true) : isSync i = false := by
  refine Bool.eq_false_iff.mpr fun hsync => ?_
  rcases (Bool.or_eq_true _ _).mp hsync with hrequest | henroll
  · exact nomatch h.symm.trans (not_start_of_request hrequest)
  · exact nomatch h.symm.trans (not_start_of_enrollment henroll)

/-- Every instruction keeps the invariant: one case for each effect of `exec`. -/
theorem Effect.inv {i : Instr} {s t : State} (he : Effect i s t) (h : s.Inv) : t.Inv := by
  cases he with
  | answered o => exact h.answerCaller o
  | built o c p m _ hf hm => exact (h.of_frame hf hm h.txLen).answerCaller o
  | armed o => exact (h.of_unread (.inl rfl)).answerCaller o
  | handed o r d a n _ hn =>
    have hlen : n ≤ s.cfg.txCap := hn.elim (· ▸ h.txLen) id
    have hspan : State.Inv { s with txLen := n } := { h with txLen := hlen }
    exact (hspan.of_unread (.inl rfl)).answerCaller o
  | aborted => exact h.abortReceive.answerCaller _
  | registered => exact (h.of_unread (.inl rfl)).answerCaller _
  | delayed d hi =>
    subst hi
    exact h.of_fg rfl nofun h.t0 h.result nofun nofun
  | delayEnded => exact h.of_idle.answerCaller _
  | txCompleted => exact { h with }
  | replied b => exact { h with wireIn := putBurst_nonempty b h.wireIn }
  | stayed => exact h
  | called => exact h.of_fg rfl nofun h.t0 rfl nofun (fun _ => rfl)
  | busy hi => exact h.raise hi rfl
  | checked p hu hi hp ho =>
    refine h.setPhase hi ?_ (fun _ => ho) (fun hs => nomatch hs.symm.trans hu)
    rcases hp with rfl | rfl <;> nofun
  | opened x c p hx hi =>
    have hstart : isStart i = true := by rw [isStart, hx]; rfl
    exact h.of_opened hi (isSync_of_isStart hstart) x
  | armedOn r d f hi hc =>
    have hregs : State.Inv { s with rdy := f, answers := r, draws := d, rxArmed := true } := h.of_unread (.inl rfl)
    exact hregs.setPhase hi nofun (h.op_none hi hc rfl) (fun _ => rfl)
  | armedWindow r d n hu hi hc =>
    have hregs : State.Inv { s with rdy := false, answers := r, draws := d, rxArmed := true } := h.of_unread (.inl rfl)
    exact hregs.openWindow hi (h.op_none hi hc rfl) hu n
  | armFailed r d f x hi _ hx =>
    exact .raise (h.of_unread (hx.imp_right And.left)) hi rfl
  | sentWindow r d n m hu hi hc hf hm =>
    exact (h.of_sent hf hm r d).openWindow hi (h.op_none hi hc rfl) hu n
  | sentArm r d m hu hi hc hf hm =>
    exact (h.of_sent hf hm r d).setPhase hi nofun (h.op_none hi hc rfl) (fun _ => rfl)
  | started r d m hi hf hm => exact (h.of_sent hf hm r d).raise hi rfl
  | sendFailed r d x m hi _ hf hx hm =>
    exact .raise ((h.of_frame hf hm h.txLen).of_unread (hx.imp_right And.left)) hi rfl
  | waited p hu hi hc hp =>
    refine h.setPhase hi ?_ (h.op_none hi hc rfl) (fun hs => nomatch hs.symm.trans hu)
    rcases hp with rfl | rfl <;> nofun
  | polled n hi => exact { h with }
  | timedOut _ hi => exact h.abortReceive.raise hi rfl
  | parsed st e x y v hi hs =>
    exact (h.of_unread (.inl rfl)).of_fg hi nofun h.t0 hs nofun (fun _ => rfl)
  | stepped y v hu hi hc =>
    exact (h.of_unread (.inl rfl)).of_fg hi nofun h.t0 h.result (fun hy _ => h.op_none hi hc rfl hy) (fun _ => rfl)
  | returned o => exact (h.of_unread (.inl rfl)).returnToCaller o
  | notified k _ hk => exact (h.recordReceive hk).of_unread (.inl rfl)
  | continued k u _ _ hk _ hu => exact (h.recordReceive hk).of_touched hu

theorem rxeStep_inv {s : State} (h : s.Inv) : (rxeStep s).Inv := by
  have hbound : s.cfg.rxCap ≤ 65535 := by
    have hcfg := h.cfg
    simp only [Config.wf, Bool.and_eq_true, decide_eq_true_eq] at hcfg
    omega
  rcases rxeStep_cases s with ⟨-, heq⟩ | ⟨b, rest, hwire, -, heq⟩ | ⟨b, rest, hwire, -, heq⟩
  · rwa [heq]
  · have hrest : ∀ x ∈ rest, x ≠ [] := fun x hx => h.wireIn x (hwire ▸ List.mem_cons_of_mem _ hx)
    rw [heq]
    exact { h with wireIn := hrest }
  · have hrest : ∀ x ∈ rest, x ≠ [] := fun x hx => h.wireIn x (hwire ▸ List.mem_cons_of_mem _ hx)
    have hinside := Memory.below_writeBytes (b.take (min b.length s.cfg.rxCap)) s.rx (a := 0)
      (by rw [List.length_take]; omega) h.rxInside
    have hsize : (BitVec.ofNat 16 (min b.length s.cfg.rxCap)).toNat ≤ s.cfg.rxCap := by
      rw [BitVec.toNat_ofNat]
      omega
    rw [heq]
    generalize hm : Memory.writeBytes s.rx 0 (b.take (min b.length s.cfg.rxCap)) = m at hinside
    exact { h with
      rxForm := hm ▸ Memory.wf_writeBytes _ _ _ h.rxForm
      rxInside := hinside
      pendRx := fun k hk => Option.some.inj hk ▸ hsize
      wireIn := hrest }

theorem txeStep_inv {s : State} (h : s.Inv) : (txeStep s).Inv := by
  rcases txeStep_cases s with ⟨-, heq⟩ | ⟨-, heq⟩
  · rwa [heq]
  · rw [heq]
    exact { h with wireOut := putBurst_nonempty _ h.wireOut, sent := putBurst_nonempty _ h.sent }

theorem tickStep_inv {s : State} (h : s.Inv) : (tickStep s).Inv :=
  { h with tick := Nat.mod_lt _ (Nat.two_pow_pos _) }

theorem dropEvent_inv {s : State} (h : s.Inv) : (dropEvent s).Inv := { h with }

/-- Where a step's instruction runs is the state itself or the state without the event. -/
theorem fetch_run_state {s u : State} {i : Instr} (h : fetch s = .run i u) : u = s ∨ u = dropEvent s := by
  rcases fetch_run h with ⟨f, bs, -, -, hu, -⟩ | ⟨-, hu, -⟩ | ⟨-, hu⟩
  · exact .inr hu
  · exact .inr hu
  · exact hu

theorem fetch_moved_inv {s t : State} (hf : fetch s = .moved t) (h : s.Inv) : t.Inv := by
  have hd := dropEvent_inv h
  rcases fetch_moved hf with rfl | rfl | ⟨-, rfl⟩ | ⟨-, rfl⟩ | rfl | ⟨b, rfl⟩ | rfl
  · exact h
  · exact hd
  · exact rxeStep_inv hd
  · exact txeStep_inv hd
  · exact { hd with wireOut := fun b hb => hd.wireOut b (List.mem_of_mem_tail hb) }
  · exact { hd with wireIn := putBurst_nonempty b hd.wireIn }
  · exact tickStep_inv hd

/-- Settles O53: a step is an instruction with one of its effects, or an agent's own move, and each of them keeps the
invariant. -/
theorem everyStepKeepsTheInvariant : Obligations.EveryStepKeepsTheInvariant := by
  intro s t h hstep
  rcases step_next hstep with ⟨i, u, hfetch, -, heffect⟩ | hfetch
  · have hu : u.Inv := (fetch_run_state hfetch).elim (· ▸ h) (· ▸ dropEvent_inv h)
    exact heffect.inv hu
  · exact fetch_moved_inv hfetch h

/-- Settles O52: at reset the buffers and the lists are empty and no operation is in progress. -/
theorem resetMeetsTheInvariant : Obligations.ResetMeetsTheInvariant := by
  intro c t hcfg htick
  exact {
    cfg := hcfg, txForm := rfl, rxForm := rfl, txInside := rfl, rxInside := rfl, rxsz := Nat.zero_le _
    pendRx := nofun, txLen := Nat.zero_le _, tick := htick, t0 := Nat.two_pow_pos _, wireOut := nofun, wireIn := nofun
    sent := nofun, result := rfl, results := nofun, idle := ⟨fun _ => rfl, fun _ => rfl⟩, syncAlone := nofun
    startNoWait := nofun }

end Sys2Proof.Machine

/-! The machine: what no step changes, and which steps write the session register, the password and the receive buffer
(10_state.md sections op, pw, RX and What is not state; 20_memory.md). -/

namespace Sys2Proof.Machine

/-! ## The instruction of a step -/

theorem agentOf_of_pendingHandler {s : State} {i : Instr} (h : pendingHandler s = some i) :
    agentOf i = .notification := by
  rcases pendingHandler_cases s with ⟨k, -, hk⟩ | ⟨-, -, htx⟩ | ⟨-, -, hnone⟩
  · exact Option.some.inj (hk.symm.trans h) ▸ rfl
  · exact Option.some.inj (htx.symm.trans h) ▸ rfl
  · exact nomatch hnone.symm.trans h

/-- An operation in progress goes on only with a foreground event: a call needs `Idle`, and no handler is an operation of
the foreground. -/
theorem fetch_run_in_progress {s u : State} {i : Instr} (h : fetch s = .run i u) (hagent : agentOf i = .foreground)
    (hphase : u.fg.phase ≠ .idle) :
    s.script.head? = some .fg ∧ u = dropEvent s ∧ s.fg.instr = some i := by
  rcases fetch_run h with ⟨f, bs, -, -, rfl, hidle⟩ | ⟨hhead, hu, hinstr, -⟩ | ⟨hhandler, -⟩
  · exact absurd (hidle hagent) hphase
  · exact ⟨hhead, hu, hinstr⟩
  · exact nomatch hagent.symm.trans (agentOf_of_pendingHandler hhandler)

theorem agentOf_of_usesLine {i : Instr} (h : usesLine i = true) : agentOf i = .foreground := by
  cases i <;> first | rfl | cases h

theorem agentOf_of_newPassword {i : Instr} {v : Word} (h : newPassword i = some v) : agentOf i = .foreground := by
  cases i <;> first | rfl | cases h

theorem agentOf_of_isStart {i : Instr} (h : isStart i = true) : agentOf i = .foreground :=
  agentOf_of_usesLine (by rw [usesLine, h, Bool.or_true])

theorem agentOf_of_isSync {i : Instr} (h : isSync i = true) : agentOf i = .foreground :=
  agentOf_of_usesLine (by rw [usesLine, h, Bool.true_or])

/-! ## The parameters -/

theorem Effect.cfg_eq {i : Instr} {s t : State} (h : Effect i s t) : t.cfg = s.cfg := by
  cases h with
  | continued k u _ _ _ _ hu => exact hu.cfg_eq
  | _ => rfl

/-! ## The moves of the other agents -/

/-- What the engines, the peer and the tick leave alone: the parameters, the session, the password, and `RX` but for the
receive engine. -/
theorem fetch_moved_frame {s t : State} (h : fetch s = .moved t) :
    t.cfg = s.cfg ∧ t.op = s.op ∧ t.pw = s.pw ∧ t.rxEpoch = s.rxEpoch ∧
      (t.rx = s.rx ∨ s.script.head? = some .rxe ∧ s.rxArmed = true) := by
  have hrxe := rxeStep_cases (dropEvent s)
  have htxe := txeStep_cases (dropEvent s)
  rcases fetch_moved h with rfl | rfl | ⟨hhead, rfl⟩ | ⟨-, rfl⟩ | rfl | ⟨b, rfl⟩ | rfl
  case inr.inr.inl =>
    rcases hrxe with ⟨-, heq⟩ | ⟨b, rest, -, -, heq⟩ | ⟨b, rest, -, harmed, heq⟩ <;> rw [heq]
    · exact ⟨rfl, rfl, rfl, rfl, .inl rfl⟩
    · exact ⟨rfl, rfl, rfl, rfl, .inl rfl⟩
    · exact ⟨rfl, rfl, rfl, rfl, .inr ⟨hhead, harmed⟩⟩
  case inr.inr.inr.inl =>
    rcases htxe with ⟨-, heq⟩ | ⟨-, heq⟩ <;> rw [heq] <;> exact ⟨rfl, rfl, rfl, rfl, .inl rfl⟩
  all_goals exact ⟨rfl, rfl, rfl, rfl, .inl rfl⟩

/-- Settles O57: no effect of an instruction and no move of another agent writes a parameter. -/
theorem parametersAreFixed : Obligations.ParametersAreFixed := by
  intro s t hstep
  rcases step_next hstep with ⟨i, u, hfetch, -, heffect⟩ | hfetch
  · exact heffect.cfg_eq.trans ((fetch_run_state hfetch).elim (· ▸ rfl) (· ▸ rfl))
  · exact (fetch_moved_frame hfetch).1

/-! ## The password (R21) -/

/-- The one effect that writes `pw`. -/
theorem Effect.pw_cases {i : Instr} {s t : State} (h : Effect i s t) :
    t.pw = s.pw ∨ (s.fg.phase = .done ∧ s.fg.result.status = .ok ∧ newPassword i = some t.pw) := by
  cases h with
  | returned o d w _ hphase hw => exact hw.imp id fun ⟨hnew, hok⟩ => ⟨hphase, hok, hnew⟩
  | continued k u _ _ _ _ hu => exact .inl (by rw [hu.rest]; rfl)
  | _ => exact .inl rfl

/-- Settles O55: the return of SET_PASSWORD is the one effect that writes `pw`, and at `Done` the instruction is the
operation in progress. -/
theorem onlySetPasswordWritesPw : Obligations.OnlySetPasswordWritesPw := by
  intro s t hstep hpw
  rcases step_next hstep with ⟨i, u, hfetch, -, heffect⟩ | hfetch
  · have hu : u.pw = s.pw := (fetch_run_state hfetch).elim (· ▸ rfl) (· ▸ rfl)
    rcases heffect.pw_cases with hsame | ⟨hphase, hok, hnew⟩
    · exact absurd (hsame.trans hu) hpw
    · obtain ⟨hhead, rfl, hinstr⟩ := fetch_run_in_progress hfetch (agentOf_of_newPassword hnew)
        (by rw [hphase]; decide)
      exact ⟨hhead, hphase, hok, i, hinstr, hnew⟩
  · exact absurd (fetch_moved_frame hfetch).2.2.1 hpw

/-! ## The session register (R22) -/

/-- The effects that write `op`: the check-and-set of a START, its roll-back, and the end of a session by a
notification. -/
theorem Effect.op_cases {i : Instr} {s t : State} (h : Effect i s t) :
    t.op = s.op ∨
    (s.op = .none ∧ s.fg.phase = .check ∧ ∃ cmd p, startRequest i = some (t.op, cmd, p)) ∨
    (t.op = .none ∧ isStart i = true ∧ (s.fg.phase = .arm ∨ s.fg.phase = .send)) ∨
    (t.op = .none ∧ ∃ k, i = .onUartReceive k ∧ s.pend.rx = some k) := by
  cases h with
  | opened x cmd p hx _ hphase hnone => exact .inr (.inl ⟨hnone, hphase, cmd, p, hx⟩)
  | armFailed r d f x _ hphase hx =>
    exact hx.imp id fun ⟨hnone, hstart⟩ => .inr (.inl ⟨hnone, hstart, .inl hphase⟩)
  | sendFailed r d x m _ hphase _ hx =>
    exact hx.imp id fun ⟨hnone, hstart⟩ => .inr (.inl ⟨hnone, hstart, .inr hphase⟩)
  | continued k u hi hpend _ _ hu => exact hu.op.imp id fun hnone => .inr (.inr ⟨hnone, k, hi, hpend⟩)
  | _ => exact .inl rfl

/-- Settles O54: the effects that write `op`, each with the event that runs it. -/
theorem sessionMovesOnlyAlongItsTable : Obligations.SessionMovesOnlyAlongItsTable := by
  intro s t hstep hop
  rcases step_next hstep with ⟨i, u, hfetch, hexec, heffect⟩ | hfetch
  case inr => exact absurd (fetch_moved_frame hfetch).2.1 hop
  have hstate := fetch_run_state hfetch
  have hu : u.op = s.op := hstate.elim (· ▸ rfl) (· ▸ rfl)
  rcases heffect.op_cases with hsame | ⟨hnone, hphase, cmd, p, hx⟩ | ⟨hnone, hstart, hphase⟩ | ⟨hnone, k, rfl, hpend⟩
  · exact absurd (hsame.trans hu) hop
  · have hstart : isStart i = true := Option.isSome_of_eq_some hx
    obtain ⟨hhead, rfl, hinstr⟩ := fetch_run_in_progress hfetch (agentOf_of_isStart hstart) (by rw [hphase]; decide)
    exact .inr ⟨hnone, hhead, hphase, i, cmd, p, hinstr, hx⟩
  · obtain ⟨hhead, rfl, hinstr⟩ := fetch_run_in_progress hfetch (agentOf_of_isStart hstart)
      (by rcases hphase with h | h <;> rw [h] <;> decide)
    exact .inl ⟨fun h => hop (hnone.trans h.symm), hnone, .inr ⟨hhead, hphase, i, hinstr, hstart, hexec⟩⟩
  · refine .inl ⟨fun h => hop (hnone.trans h.symm), hnone, .inl ⟨k, ?_⟩⟩
    rcases hstate with rfl | rfl
    · exact ⟨hpend, .inl hexec⟩
    · exact ⟨hpend, .inr hexec⟩

/-! ## The receive buffer (R26) -/

/-- The effects that write `RX` or begin a new epoch of its free bytes: an abort, by whoever makes it. -/
theorem Effect.rx_cases {i : Instr} {s t : State} (h : Effect i s t) :
    (t.rx = s.rx ∧ t.rxEpoch = s.rxEpoch) ∨ (i = .abortReceive ∧ s.fg.phase = .idle) ∨
    (isSync i = true ∧ s.fg.phase = .abort) ∨ (s.op ≠ .none ∧ s.pend.rx ≠ none ∧ mayAbort s) := by
  cases h with
  | aborted hi hphase => exact .inr (.inl ⟨hi, hphase⟩)
  | timedOut hsync _ hphase => exact .inr (.inr (.inl ⟨hsync, hphase⟩))
  | continued k u _ hpend _ hop hu =>
    exact hu.rx.imp id fun ⟨_, habort⟩ => .inr (.inr ⟨hop, by rw [hpend]; nofun, habort⟩)
  | _ => exact .inl ⟨rfl, rfl⟩

/-- Settles O56: the receive engine is the one agent that writes `RX`, an abort the one effect of an instruction that
gives its bytes up, and a byte reads otherwise only after one of them. -/
theorem onlyEngineAndAbortWriteRx : Obligations.OnlyEngineAndAbortWriteRx := by
  intro s t hstep hchange
  have hkept : ¬ (t.rx = s.rx ∧ t.rxEpoch = s.rxEpoch) := by
    rintro ⟨hrx, hepoch⟩
    rcases hchange with h | h | ⟨a, h⟩
    · exact h hrx
    · exact h hepoch
    · exact h (State.rxByte_congr hrx hepoch a)
  rcases step_next hstep with ⟨i, u, hfetch, -, heffect⟩ | hfetch
  case inr =>
    obtain ⟨-, -, -, hepoch, hrx⟩ := fetch_moved_frame hfetch
    rcases hrx with hrx | ⟨hhead, harmed⟩
    · exact absurd ⟨hrx, hepoch⟩ hkept
    · exact .inl ⟨hhead, harmed, hepoch⟩
  have hstate := fetch_run_state hfetch
  have hu : u.rx = s.rx ∧ u.rxEpoch = s.rxEpoch := by rcases hstate with rfl | rfl <;> exact ⟨rfl, rfl⟩
  rcases heffect.rx_cases with ⟨hrx, hepoch⟩ | ⟨rfl, hidle⟩ | ⟨hsync, hphase⟩ | ⟨hop, hpend, habort⟩
  · exact absurd ⟨hrx.trans hu.1, hepoch.trans hu.2⟩ hkept
  · rcases fetch_run hfetch with ⟨f, bs, hhead, hdecode, -⟩ | ⟨-, rfl, -, hbusy⟩ | ⟨hhandler, -⟩
    · exact .inr (.inr (.inl ⟨f, bs, hhead, hdecode⟩))
    · exact absurd hidle hbusy
    · exact nomatch (agentOf_of_pendingHandler hhandler : agentOf .abortReceive = .notification)
  · obtain ⟨hhead, rfl, -⟩ := fetch_run_in_progress hfetch (agentOf_of_isSync hsync) (by rw [hphase]; decide)
    exact .inr (.inl ⟨hhead, hphase⟩)
  · rcases hstate with rfl | rfl <;> exact .inr (.inr (.inr ⟨hop, hpend, habort⟩))

end Sys2Proof.Machine
